-- ==== Sys2Proof/Word.lean ====
section
/-! DEFINITION. The word types of the block (00_scope.md R10) and the eight lanes of a full payload. -/

namespace Sys2Proof

/-- `u8` (R10): a payload lane, a fault bitmap, a setpoint. -/
abbrev Byte := BitVec 8

/-- `u16`, read as `i16` through `BitVec.toInt` (R10, R12): a joined two-byte field. -/
abbrev Half := BitVec 16

/-- `u32` (R10): the word that carries the 29-bit identifier. -/
abbrev Word := BitVec 32

/-- Eight byte lanes, lane 0 first (20_memory.md R50): the payload of an outbound frame, and the
lane wires of an inbound one. -/
structure Lanes where
  l0 : Byte
  l1 : Byte
  l2 : Byte
  l3 : Byte
  l4 : Byte
  l5 : Byte
  l6 : Byte
  l7 : Byte
  deriving DecidableEq, Repr, Inhabited

end Sys2Proof
end

