-- ==== Sys2Proof/Config.lean ====
section
/-! DEFINITION. The parameters of the block: the constants the source fixes (00_scope.md R7), all of
them here so that a correction is one edit (D31), and the two open parameters of R8. -/

namespace Sys2Proof.Config

/-! Widths and counts (R7). -/

/-- ID_BITS: width of the identifier, carried in a `Word`. -/
abbrev idBits : Nat := 29

/-- PAYLOAD_LANES: nominal payload length. -/
abbrev payloadLanes : Nat := 8

/-- Bitmap subsystems: Tachometer, FuelGauge, Thermometer. -/
abbrev bitmapSubsystems : Nat := 3

/-- FMI subsystems: Linear, Temperature, Position. -/
abbrev fmiSubsystems : Nat := 3

/-- Width of a fault bitmap. -/
abbrev bitmapWidth : Nat := 8

/-- The used bits of a bitmap are 0 to 6, one per indicator lane. -/
abbrev bitmapUsedBits : Nat := 7

/-- The reserved bit of a bitmap, set in the sentinel. -/
abbrev bitmapReservedBit : Nat := 7

/-- Width of the FMI code. -/
abbrev fmiWidth : Nat := 5

/-- The payload byte the FMI code is taken from. -/
abbrev fmiLane : Nat := 4

/-! PGN table (R7). -/

abbrev pgnLinearDisplacement : Half := 0xF032
abbrev pgnEngineTemperature : Half := 0xFEEE
abbrev pgnVehiclePosition : Half := 0xFEE9
abbrev pgnVehicleOrientation : Half := 0xFFFF
/-- Transmit only (R85). -/
abbrev pgnHeaterSetpoint : Half := 0xF037
/-- Transmit only (R85). -/
abbrev pgnTreadPosition : Half := 0xFFF8
abbrev pgnDm1 : Half := 0xFECA
abbrev pgnTest : Half := 0xFFBB
/-- Transmit only (R85); no operation builds it (R7). -/
abbrev pgnDm4Test : Half := 0xFFF0
abbrev pgnFuelGaugeDtc : Half := 0xBEBA
abbrev pgnTemperatureDtc : Half := 0xBEEF
abbrev pgnTachometerDtc : Half := 0xBEB0

/-! Device addresses (R7). -/

abbrev addrLinear : Byte := 0x48
abbrev addrThermal : Byte := 0x50
abbrev addrPosition : Byte := 0x63

/-! Fixed fields of every outbound frame the block builds itself (R7, R190). -/

abbrev txPriority : Word := 6
abbrev txEdp : BitVec 1 := 0
abbrev txDp : BitVec 1 := 0

/-- The bitmap value "no faults" (R7, R24). -/
abbrev sentinel : Byte := 0x80

/-- Mask of the FMI code inside its payload lane, 0x1F (R7, R26). -/
abbrev fmiMask : Byte := BitVec.ofNat 8 (2 ^ fmiWidth - 1)

/-! Scale and offset constants (R7, R171). -/

abbrev temperatureOffset : Int := 40
abbrev linearDivisor : Nat := 10
abbrev orientationDivisor : Nat := 128

/-! Setpoint remap constants (R7, R200): 251 to 0, 255 to 250. -/

abbrev setpointWrap : Byte := 251
abbrev setpointWrapTo : Byte := 0
abbrev setpointUnder : Byte := 255
abbrev setpointUnderTo : Byte := 250

/-- Default byte of a setpoint frame (R7, R80). -/
abbrev setpointFill : Byte := 0xFF

/-- `RXQ_DEPTH` (R8, R22, D26): the open capacity of the inbound queue, `none` = unbounded, the
default the spec allows. DESIGN CHOICE, log 8, unsafe for hardware of finite depth. -/
def rxqDepth : Option Nat := none

/-- The 29 identifier bits of `ACK_FRAME` (R129, D19): uninterpreted, no claim can use a value.
DESIGN CHOICE, log 7. -/
opaque ackIdent : BitVec idBits

/-- The payload of `ACK_FRAME` (R129, D19): uninterpreted. DESIGN CHOICE, log 7. -/
opaque ackData : Lanes

/-- `ACK_ID` of R129: a `u32` whose bits 31:29 are zero. -/
def ackId : Word := ackIdent.setWidth 32

end Sys2Proof.Config
end

