-- ==== Sys2Proof/Syntax.lean ====
section
/-! DEFINITION. The terms of the block: frames, subsystems, register names, the instructions (one
constructor per row of the opcode table), the raw port values they are decoded from, and the moves
the host can make. -/

namespace Sys2Proof

/-- The bitmap subsystems (10_state.md R21). -/
inductive BitmapSub where
  | tachometer
  | fuelGauge
  | thermometer
  deriving DecidableEq, Repr

/-- Every bitmap subsystem; how many is `Config.bitmapSubsystems` (R7). -/
def BitmapSub.all : List BitmapSub := [.tachometer, .fuelGauge, .thermometer]

/-- The DM1 subsystems (R21). `temperature` is not `thermometer`. -/
inductive Dm1Sub where
  | linear
  | temperature
  | position
  deriving DecidableEq, Repr

/-- Every DM1 subsystem; how many is `Config.fmiSubsystems` (R7). -/
def Dm1Sub.all : List Dm1Sub := [.linear, .temperature, .position]

/-- The six subsystems (R21). -/
inductive Subsystem where
  | bitmap (s : BitmapSub)
  | dm1 (d : Dm1Sub)
  deriving DecidableEq, Repr

/-- The registers `READ` can name (30_encoding.md R89). -/
inductive RegName where
  | fb (s : BitmapSub)
  | nf (s : BitmapSub)
  | fmi (d : Dm1Sub)
  | svLin
  | svEtemp
  | svPosX
  | svPosY
  | svOri
  deriving DecidableEq, Repr

/-- An inbound frame (R75): the identifier word and the valid payload bytes, lane 0 first. `len` of
R75 is the length of `data`; a lane at index `len` or above has no value (R52) and is not there. -/
structure Frame where
  id : Word
  data : List Byte
  deriving DecidableEq, Repr

/-- The twelve handlers of `select` (41_pgn_dispatch.md R120). -/
inductive Handler where
  | bmpTach
  | bmpFuel
  | bmpTherm
  | dm1Lin
  | dm1Temp
  | dm1Pos
  | sigLin
  | sigEtemp
  | sigPos
  | sigOri
  | testAck
  | drop
  deriving DecidableEq, Repr

/-- The instructions: one constructor per row of `opcode_table.json`. The frame-selected ones
carry the inbound frame; the host commands carry the operands of R88. -/
inductive Instr where
  | bmpTach (f : Frame)
  | bmpFuel (f : Frame)
  | bmpTherm (f : Frame)
  | dm1Lin (f : Frame)
  | dm1Temp (f : Frame)
  | dm1Pos (f : Frame)
  | sigLin (f : Frame)
  | sigEtemp (f : Frame)
  | sigPos (f : Frame)
  | sigOri (f : Frame)
  | testAck (f : Frame)
  | drop (f : Frame)
  | decodeId (id : Word)
  | encodeId (pri : Word) (edp dp : BitVec 1) (pgn sa : Word)
  | dispatch (f : Frame)
  | drain
  | ftReset (sub : Subsystem)
  | buildReset (sel : Byte)
  | buildSetpoint (sel setpoint : Byte)
  | adjust (current delta : Byte)
  | read (reg : RegName)
  deriving DecidableEq, Repr

/-- The wires of one inbound frame (R75): `len` is 4 bits wide, 9 to 15 reserved. -/
structure RawFrame where
  id : Word
  len : BitVec 4
  lanes : Lanes
  deriving DecidableEq, Repr

/-- The command tag and the operand ports (R83, R86, R88). Each command reads its own ports and
ignores the others. DESIGN CHOICE, log 4: one record holds all the ports. -/
structure CommandPorts where
  op : BitVec 4
  id : Word
  pri : Word
  edp : BitVec 1
  dp : BitVec 1
  pgn : Word
  sa : Word
  frame : RawFrame
  sub : BitVec 3
  sel : Byte
  setpoint : Byte
  current : Byte
  delta : Byte
  reg : BitVec 4
  deriving DecidableEq, Repr

/-- What one operation is decoded from, in the two formats of the opcode table (R84, R86): an
inbound frame handed to the dispatcher, or a command (R14). -/
inductive Request where
  | frame (raw : RawFrame)
  | command (ports : CommandPorts)
  deriving DecidableEq, Repr

/-- Why a request is not decoded: the reserved encodings of R90. -/
inductive DecodeError where
  | reservedLength
  | reservedTag
  | reservedSubsystem
  | reservedRegister
  deriving DecidableEq, Repr

/-- A move of the host between operations (60_exceptions.md R241): `PUSH` (R121), an operation
(R14), hardware reset (R250). -/
inductive HostMove where
  | push (raw : RawFrame)
  | request (r : Request)
  | reset
  deriving DecidableEq, Repr

end Sys2Proof
end

