-- ==== Sys2Proof/WellFormed.lean ====
section
/-! DEFINITION. Which instruction terms an encoding can carry: the payload has at most eight bytes
(30_encoding.md R75), and the identifier of a frame-selected instruction matches its row of the
opcode map, by the mask and match columns of R84. -/

namespace Sys2Proof

/-- One row of the table of R84, `id & mask = pat`. -/
structure FrameRow where
  handler : Handler
  mask : Word
  pat : Word
  deriving DecidableEq, Repr

def FrameRow.hits (r : FrameRow) (id : Word) : Bool := id &&& r.mask == r.pat

/-- A row of R84 that matches the PGN, bits 23:8, alone. -/
def pgnRow (h : Handler) (pgn : Half) : FrameRow := ⟨h, 0x00FFFF00, pgn.setWidth 32 <<< 8⟩

/-- A DM1 row of R84, which matches the source address, bits 7:0, too. -/
def dm1Row (h : Handler) (addr : Byte) : FrameRow :=
  ⟨h, 0x00FFFFFF, (Config.pgnDm1.setWidth 32 <<< 8) ||| addr.setWidth 32⟩

/-- The table of R84 without its last row, `DROP`, which takes whatever no other row matches; the match
values are built from the constants of R7 (`frameTable_eq` writes them out). -/
def frameTable : List FrameRow :=
  [ pgnRow .bmpTach Config.pgnTachometerDtc,
    pgnRow .bmpFuel Config.pgnFuelGaugeDtc,
    pgnRow .bmpTherm Config.pgnTemperatureDtc,
    dm1Row .dm1Lin Config.addrLinear,
    dm1Row .dm1Temp Config.addrThermal,
    dm1Row .dm1Pos Config.addrPosition,
    pgnRow .sigLin Config.pgnLinearDisplacement,
    pgnRow .sigEtemp Config.pgnEngineTemperature,
    pgnRow .sigPos Config.pgnVehiclePosition,
    pgnRow .sigOri Config.pgnVehicleOrientation,
    pgnRow .testAck Config.pgnTest ]

/-- The row of R84 an identifier matches. -/
def tableSelect (id : Word) : Handler :=
  match frameTable.find? (·.hits id) with
  | some r => r.handler
  | none => .drop

/-- `len` is 0 to 8 (R75). -/
def Frame.wf (f : Frame) : Bool := decide (f.data.length ≤ Config.payloadLanes)

/-- A frame that row `h` of the opcode table can carry. -/
def Frame.fits (h : Handler) (f : Frame) : Bool := f.wf && tableSelect f.id == h

/-- The well-formed instructions. Operands typed exactly by their ports need no check. -/
def Instr.wf : Instr → Bool
  | .bmpTach f => f.fits .bmpTach
  | .bmpFuel f => f.fits .bmpFuel
  | .bmpTherm f => f.fits .bmpTherm
  | .dm1Lin f => f.fits .dm1Lin
  | .dm1Temp f => f.fits .dm1Temp
  | .dm1Pos f => f.fits .dm1Pos
  | .sigLin f => f.fits .sigLin
  | .sigEtemp f => f.fits .sigEtemp
  | .sigPos f => f.fits .sigPos
  | .sigOri f => f.fits .sigOri
  | .testAck f => f.fits .testAck
  | .drop f => f.fits .drop
  | .decodeId _ => true
  | .encodeId _ _ _ _ _ => true
  | .dispatch f => f.wf
  | .drain => true
  | .ftReset _ => true
  | .buildReset _ => true
  | .buildSetpoint _ _ => true
  | .adjust _ _ => true
  | .read _ => true

end Sys2Proof
end

