-- ==== Sys2Proof/Decode.lean ====
section
/-! DEFINITION. The decoder, from raw port values to instructions, total and refusing every reserved
encoding by name (30_encoding.md R90); then the encoder, from the same tables. -/

namespace Sys2Proof

/-! Identifier fields (R70, R72). -/

def idPri (id : Word) : BitVec 3 := id.extractLsb' 26 3
def idEdp (id : Word) : BitVec 1 := id.extractLsb' 25 1
def idDp (id : Word) : BitVec 1 := id.extractLsb' 24 1
def idPf (id : Word) : Byte := id.extractLsb' 16 8
def idPs (id : Word) : Byte := id.extractLsb' 8 8
def idSa (id : Word) : Byte := id.extractLsb' 0 8
/-- `pgn = id[23:8]`, 16 bits, without the data-page bits (R73, C3). -/
def idPgn (id : Word) : Half := id.extractLsb' 8 16

/-- The sub-dispatch of a DM1 frame by source address (R120, R27); any other address is dropped
(R128, D14). -/
def selectDm1 (sa : Byte) : Handler :=
  if sa = Config.addrLinear then .dm1Lin
  else if sa = Config.addrThermal then .dm1Temp
  else if sa = Config.addrPosition then .dm1Pos
  else .drop

/-- `select(id)` of R120: exact match on the PGN, and for DM1 on the source address (R81). -/
def select (id : Word) : Handler :=
  let pgn := idPgn id
  if pgn = Config.pgnTachometerDtc then .bmpTach
  else if pgn = Config.pgnFuelGaugeDtc then .bmpFuel
  else if pgn = Config.pgnTemperatureDtc then .bmpTherm
  else if pgn = Config.pgnDm1 then selectDm1 (idSa id)
  else if pgn = Config.pgnLinearDisplacement then .sigLin
  else if pgn = Config.pgnEngineTemperature then .sigEtemp
  else if pgn = Config.pgnVehiclePosition then .sigPos
  else if pgn = Config.pgnVehicleOrientation then .sigOri
  else if pgn = Config.pgnTest then .testAck
  else .drop

/-- The instruction of a handler on a frame. -/
def Handler.instr : Handler → Frame → Instr
  | .bmpTach, f => .bmpTach f
  | .bmpFuel, f => .bmpFuel f
  | .bmpTherm, f => .bmpTherm f
  | .dm1Lin, f => .dm1Lin f
  | .dm1Temp, f => .dm1Temp f
  | .dm1Pos, f => .dm1Pos f
  | .sigLin, f => .sigLin f
  | .sigEtemp, f => .sigEtemp f
  | .sigPos, f => .sigPos f
  | .sigOri, f => .sigOri f
  | .testAck, f => .testAck f
  | .drop, f => .drop f

/-- The lanes in payload order, lane 0 first (R50). -/
def Lanes.toList (l : Lanes) : List Byte := [l.l0, l.l1, l.l2, l.l3, l.l4, l.l5, l.l6, l.l7]

/-- The frame on the wires: only the first `len` lanes are valid; `len` 9 to 15 is refused (R75). -/
def RawFrame.frame (raw : RawFrame) : Except DecodeError Frame :=
  if raw.len.toNat ≤ Config.payloadLanes then .ok ⟨raw.id, raw.lanes.toList.take raw.len.toNat⟩
  else .error .reservedLength

/-- Subsystem numbers 0 to 5 (10_state.md R21, D4); 6 and 7 are reserved. -/
def subsystemOf (n : BitVec 3) : Option Subsystem :=
  match n.toNat with
  | 0 => some (.bitmap .tachometer)
  | 1 => some (.bitmap .fuelGauge)
  | 2 => some (.bitmap .thermometer)
  | 3 => some (.dm1 .linear)
  | 4 => some (.dm1 .temperature)
  | 5 => some (.dm1 .position)
  | _ => none

/-- Register numbers 0 to 13 (R89, D30); 14 and 15 are reserved. -/
def regOf (n : BitVec 4) : Option RegName :=
  match n.toNat with
  | 0 => some (.fb .tachometer)
  | 1 => some (.fb .fuelGauge)
  | 2 => some (.fb .thermometer)
  | 3 => some (.nf .tachometer)
  | 4 => some (.nf .fuelGauge)
  | 5 => some (.nf .thermometer)
  | 6 => some (.fmi .linear)
  | 7 => some (.fmi .temperature)
  | 8 => some (.fmi .position)
  | 9 => some .svLin
  | 10 => some .svEtemp
  | 11 => some .svPosX
  | 12 => some .svPosY
  | 13 => some .svOri
  | _ => none

/-- An inbound frame selects its instruction by its identifier (R84); the payload takes no part
(R76). -/
def decodeFrame (raw : RawFrame) : Except DecodeError Instr :=
  match raw.frame with
  | .ok f => .ok ((select f.id).instr f)
  | .error e => .error e

/-- A command by its tag (R86); tags 9 to 15 are reserved (R90). -/
def decodeCommand (p : CommandPorts) : Except DecodeError Instr :=
  match p.op.toNat with
  | 0 => .ok (.decodeId p.id)
  | 1 => .ok (.encodeId p.pri p.edp p.dp p.pgn p.sa)
  | 2 =>
    match p.frame.frame with
    | .ok f => .ok (.dispatch f)
    | .error e => .error e
  | 3 => .ok .drain
  | 4 =>
    match subsystemOf p.sub with
    | some sub => .ok (.ftReset sub)
    | none => .error .reservedSubsystem
  | 5 => .ok (.buildReset p.sel)
  | 6 => .ok (.buildSetpoint p.sel p.setpoint)
  | 7 => .ok (.adjust p.current p.delta)
  | 8 =>
    match regOf p.reg with
    | some reg => .ok (.read reg)
    | none => .error .reservedRegister
  | _ => .error .reservedTag

/-- The decoder. -/
def decode : Request → Except DecodeError Instr
  | .frame raw => decodeFrame raw
  | .command p => decodeCommand p

/-! The encoder. -/

def Subsystem.number : Subsystem → BitVec 3
  | .bitmap .tachometer => 0
  | .bitmap .fuelGauge => 1
  | .bitmap .thermometer => 2
  | .dm1 .linear => 3
  | .dm1 .temperature => 4
  | .dm1 .position => 5

def RegName.number : RegName → BitVec 4
  | .fb .tachometer => 0
  | .fb .fuelGauge => 1
  | .fb .thermometer => 2
  | .nf .tachometer => 3
  | .nf .fuelGauge => 4
  | .nf .thermometer => 5
  | .fmi .linear => 6
  | .fmi .temperature => 7
  | .fmi .position => 8
  | .svLin => 9
  | .svEtemp => 10
  | .svPosX => 11
  | .svPosY => 12
  | .svOri => 13

/-- Lane `i` of a payload as the wires carry it; a lane with no value carries 0, which no rule reads
(log 9). -/
def wireLane (data : List Byte) (i : Nat) : Byte := (data[i]?).getD 0

def wireLanes (data : List Byte) : Lanes :=
  ⟨wireLane data 0, wireLane data 1, wireLane data 2, wireLane data 3,
   wireLane data 4, wireLane data 5, wireLane data 6, wireLane data 7⟩

def Frame.raw (f : Frame) : RawFrame := ⟨f.id, BitVec.ofNat 4 f.data.length, wireLanes f.data⟩

/-- Every wire low: the value the encoder leaves on the ports a command does not read. -/
def idleFrame : RawFrame := ⟨0, 0, ⟨0, 0, 0, 0, 0, 0, 0, 0⟩⟩

/-- The ports with tag `op` and every operand wire low. -/
def tagPorts (op : BitVec 4) : CommandPorts :=
  { op := op, id := 0, pri := 0, edp := 0, dp := 0, pgn := 0, sa := 0, frame := idleFrame, sub := 0,
    sel := 0, setpoint := 0, current := 0, delta := 0, reg := 0 }

/-- The encoder: the identifier word and payload of a frame-selected instruction (R75, R84), the tag
(R86) and operands (R88) of a command. -/
def encode : Instr → Request
  | .bmpTach f => .frame f.raw
  | .bmpFuel f => .frame f.raw
  | .bmpTherm f => .frame f.raw
  | .dm1Lin f => .frame f.raw
  | .dm1Temp f => .frame f.raw
  | .dm1Pos f => .frame f.raw
  | .sigLin f => .frame f.raw
  | .sigEtemp f => .frame f.raw
  | .sigPos f => .frame f.raw
  | .sigOri f => .frame f.raw
  | .testAck f => .frame f.raw
  | .drop f => .frame f.raw
  | .decodeId id => .command { tagPorts 0x0 with id := id }
  | .encodeId pri edp dp pgn sa =>
    .command { tagPorts 0x1 with pri := pri, edp := edp, dp := dp, pgn := pgn, sa := sa }
  | .dispatch f => .command { tagPorts 0x2 with frame := f.raw }
  | .drain => .command (tagPorts 0x3)
  | .ftReset sub => .command { tagPorts 0x4 with sub := sub.number }
  | .buildReset sel => .command { tagPorts 0x5 with sel := sel }
  | .buildSetpoint sel setpoint => .command { tagPorts 0x6 with sel := sel, setpoint := setpoint }
  | .adjust current delta => .command { tagPorts 0x7 with current := current, delta := delta }
  | .read reg => .command { tagPorts 0x8 with reg := reg.number }

/-! The opcode table's own numbering of a row's bits (log 13). -/

/-- The request whose table bits are `w` and whose other wires are 0: a row of 32 bits is the
identifier word of a frame (format FRAME), a shorter one is the 4-bit tag of a command (format CMD),
whose operands the table leaves on their ports. A word with bits outside its row is none. -/
def tableRequest (nbits w : Nat) : Option Request :=
  if 32 ≤ nbits then
    if w < 2 ^ 32 then some (.frame { idleFrame with id := BitVec.ofNat 32 w }) else none
  else
    if w < 16 then some (.command (tagPorts (BitVec.ofNat 4 w))) else none

/-- The instruction the decoder reads from a word of the opcode table. -/
def decodeTableWord (nbits w : Nat) : Option Instr :=
  match tableRequest nbits w with
  | none => none
  | some r =>
    match decode r with
    | .ok i => some i
    | .error _ => none

end Sys2Proof
end

