-- ==== Sys2Proof/Machine/State.lean ====
section
/-! DEFINITION. The state of the block (10_state.md R20), what it hands to the host, the reasons a
step can stop, and the state after reset (R38). -/

namespace Sys2Proof.Machine

/-- The three 8-bit registers of the bitmap subsystems: `FB` (R23) or `NF` (R25). -/
structure BitmapBank where
  tachometer : BitVec Config.bitmapWidth
  fuelGauge : BitVec Config.bitmapWidth
  thermometer : BitVec Config.bitmapWidth
  deriving DecidableEq, Repr

/-- `FMI[d]` (R26): 8 bits each. -/
structure FmiBank where
  linear : Byte
  temperature : Byte
  position : Byte
  deriving DecidableEq, Repr

/-- A signal value register with its valid mark (R28, R29, R31); `num` is the `i16` numerator. -/
structure SignalReg where
  num : Half
  valid : Bool
  deriving DecidableEq, Repr

/-- `SV_POSX` and `SV_POSY` with the one valid mark they share (R30). -/
structure PositionReg where
  x : Half
  y : Half
  valid : Bool
  deriving DecidableEq, Repr

/-- The kinds of a decoded signal (R33, D5). -/
inductive SignalKind where
  | linearDisplacement
  | engineTemperature
  | vehiclePosition
  | vehicleOrientation
  deriving DecidableEq, Repr

/-- A decoded signal with its numerators: the payload of `SignalChanged` (R33). -/
inductive Signal where
  | linearDisplacement (n : Half)
  | engineTemperature (n : Half)
  | vehiclePosition (x y : Half)
  | vehicleOrientation (n : Half)
  deriving DecidableEq, Repr

/-- Status codes (60_exceptions.md R221). -/
inductive Status where
  | ok
  | invalidField
  | malformedPayload
  | noValue
  deriving DecidableEq, Repr

/-- The events of the output stream (R33). -/
inductive Event where
  | signalChanged (v : Signal)
  | newFault (s : BitmapSub) (bitmap mask : Byte)
  | fmiChanged (d : Dm1Sub) (fmi : Byte)
  | frameOut (id : Word) (data : Lanes)
  | frameError (kind : Status) (id : Word)
  deriving DecidableEq, Repr

/-- The result ports of R88. `empty`: the operation has no result, or failed. -/
inductive Result where
  | empty
  | fields (pri : BitVec 3) (edp dp : BitVec 1) (pf ps sa : Byte) (pgn : Half)
  | ident (id : Word)
  | frame (id : Word) (data : Lanes)
  | byte (v : Byte)
  | half (v : Half)
  deriving DecidableEq, Repr

/-- What an operation gives back to its immediate caller (R88, R220). -/
structure Reply where
  status : Status
  result : Result
  deriving DecidableEq, Repr

/-- The reasons a step faults. The spec gives the block no fatal condition (R228). -/
inductive Fault where
  /-- Raised by the payload reads of `Operands.lean` for a lane outside R52's condition
  `i + n <= len`. The length check of R126 keeps every handler inside it, so no step raises this.
  Safe: the machine stops rather than reading a lane that has no value. -/
  | laneOutOfBounds
  deriving DecidableEq, Repr

/-- The reasons a step is refused: encodings the spec reserves ("a model refuses", R90). -/
inductive Refusal where
  /-- An instruction with no meaning yet, by its mnemonic. No arm of `exec` raises it. Safe. -/
  | notModelled (mnemonic : String)
  /-- Raised by `PUSH`, `DISPATCH` or a frame request whose `len` is 9 to 15 (R75, U3). Safe. -/
  | reservedLength
  /-- Raised by a command whose tag is 9 to 15 (R90, U15). Safe. -/
  | reservedTag
  /-- Raised by `FT.RESET` whose `sub` is 6 or 7 (R90, U16). Safe. -/
  | reservedSubsystem
  /-- Raised by `READ` whose `reg` is 14 or 15 (R90, U16). Safe. -/
  | reservedRegister
  /-- Raised by `PUSH` when `RXQ_DEPTH` is finite and reached (U24). Safe. -/
  | queueFull
  deriving DecidableEq, Repr

/-- The state: the members of R20, then the model's two fields for the host's side. -/
structure State where
  /-- `FB[s]`, the latched fault bitmaps (R23). -/
  fb : BitmapBank
  /-- `NF[s]`, the new-faults masks (R25). -/
  nf : BitmapBank
  /-- `FMI[d]`, the failure mode identifiers (R26). -/
  fmi : FmiBank
  /-- `SV_LIN` (R28). -/
  svLin : SignalReg
  /-- `SV_ETEMP` (R29). -/
  svEtemp : SignalReg
  /-- `SV_POSX`, `SV_POSY` (R30). -/
  svPos : PositionReg
  /-- `SV_ORI` (R31). -/
  svOri : SignalReg
  /-- `RXQ`, oldest frame first (R22). -/
  rxq : List Frame
  /-- `OUT`, oldest event first (R33). -/
  out : List Event
  /-- What the operations since reset gave back, oldest first. DESIGN CHOICE, log 3. -/
  replies : List Reply
  /-- The host moves still to be performed, next one first. DESIGN CHOICE, log 1. -/
  moves : List HostMove
  deriving DecidableEq, Repr

/-- The state after reset (R38). The numbers of the four signal registers are unspecified there and
not readable while the mark is false: 0, DESIGN CHOICE, log 6, unsafe. -/
def State.reset : State where
  fb := ⟨Config.sentinel, Config.sentinel, Config.sentinel⟩
  nf := ⟨0, 0, 0⟩
  fmi := ⟨0, 0, 0⟩
  svLin := ⟨0, false⟩
  svEtemp := ⟨0, false⟩
  svPos := ⟨0, 0, false⟩
  svOri := ⟨0, false⟩
  rxq := []
  out := []
  replies := []
  moves := []

end Sys2Proof.Machine
end

