-- ==== Sys2Proof/Machine/Ops.lean ====
section
/-! DEFINITION. The named operations over the state: the one place each register is read and written,
the output stream, and the two ways an operation ends, with a result or with an error status
(60_exceptions.md R220 to R227; the block has no other exception entry and no return from one). -/

namespace Sys2Proof.Machine

/-! Register banks. -/

def BitmapBank.get (b : BitmapBank) : BitmapSub → Byte
  | .tachometer => b.tachometer
  | .fuelGauge => b.fuelGauge
  | .thermometer => b.thermometer

def BitmapBank.set (b : BitmapBank) (s : BitmapSub) (v : Byte) : BitmapBank :=
  match s with
  | .tachometer => { b with tachometer := v }
  | .fuelGauge => { b with fuelGauge := v }
  | .thermometer => { b with thermometer := v }

def FmiBank.get (b : FmiBank) : Dm1Sub → Byte
  | .linear => b.linear
  | .temperature => b.temperature
  | .position => b.position

def FmiBank.set (b : FmiBank) (d : Dm1Sub) (v : Byte) : FmiBank :=
  match d with
  | .linear => { b with linear := v }
  | .temperature => { b with temperature := v }
  | .position => { b with position := v }

/-! Writes of one piece of state. -/

/-- `FB[s] <- v`. -/
def State.setFb (st : State) (s : BitmapSub) (v : Byte) : State := { st with fb := st.fb.set s v }

/-- `NF[s] <- v`. -/
def State.setNf (st : State) (s : BitmapSub) (v : Byte) : State := { st with nf := st.nf.set s v }

/-- `FMI[d] <- v`. -/
def State.setFmi (st : State) (d : Dm1Sub) (v : Byte) : State := { st with fmi := st.fmi.set d v }

/-- `SV_LIN <- n ; SV_LIN.valid <- true`. -/
def State.setSvLin (st : State) (n : Half) : State := { st with svLin := ⟨n, true⟩ }

/-- `SV_ETEMP <- n ; SV_ETEMP.valid <- true`. -/
def State.setSvEtemp (st : State) (n : Half) : State := { st with svEtemp := ⟨n, true⟩ }

/-- `SV_POSX <- x ; SV_POSY <- y ; SV_POS.valid <- true`. -/
def State.setSvPos (st : State) (x y : Half) : State := { st with svPos := ⟨x, y, true⟩ }

/-- `SV_ORI <- n ; SV_ORI.valid <- true`. -/
def State.setSvOri (st : State) (n : Half) : State := { st with svOri := ⟨n, true⟩ }

def State.setRxq (st : State) (q : List Frame) : State := { st with rxq := q }

def State.setMoves (st : State) (m : List HostMove) : State := { st with moves := m }

/-- `emit e`: append to `OUT` (00_scope.md R13). -/
def State.emit (st : State) (e : Event) : State := { st with out := st.out ++ [e] }

/-- Give a status and a result back to the immediate caller (R220). -/
def State.answer (st : State) (r : Reply) : State := { st with replies := st.replies ++ [r] }

/-! How an operation ends. -/

/-- `return v` with status OK (R13). -/
def succeed (v : Result) (s : State) : Host.Outcome State Fault Refusal :=
  .next (s.answer ⟨.ok, v⟩)

/-- `raise e`: the operation ends with status `e`, no result, no register written and no event
(R13, R226). This is all an error does: no saved state, no transfer of control (R227). -/
def raise (e : Status) (s : State) : Host.Outcome State Fault Refusal :=
  .next (s.answer ⟨e, .empty⟩)

/-- What a handler did with its frame: finished in a state, raised an error before writing anything
(R225), or asked for a lane that does not exist. -/
inductive Handled where
  | done (s : State)
  | raised (e : Status)
  | outOfBounds

/-- The length check in front of a handler (41_pgn_dispatch.md R122, R126). -/
def guardLength (min : Nat) (f : Frame) (body : Handled) : Handled :=
  if f.data.length < min then .raised .malformedPayload else body

/-- A handler's end when the host is the immediate caller (R229): the host receives the status. -/
def returnToHost (s : State) : Handled → Host.Outcome State Fault Refusal
  | .done t => succeed .empty t
  | .raised e => raise e s
  | .outOfBounds => .fault .laneOutOfBounds

/-- The draining loop's report of an erroneous frame (R124, R229): one `FrameError` with the
identifier exactly as it was pushed. -/
def reportFrameError (e : Status) (id : Word) (s : State) : State := s.emit (.frameError e id)

/-- The value of a register for `READ` (44_command_encoder.md R205), `none` for a signal register
whose valid mark is false (R32). -/
def readRegister (s : State) : RegName → Option Result
  | .fb b => some (.byte (s.fb.get b))
  | .nf b => some (.byte (s.nf.get b))
  | .fmi d => some (.byte (s.fmi.get d))
  | .svLin => if s.svLin.valid then some (.half s.svLin.num) else none
  | .svEtemp => if s.svEtemp.valid then some (.half s.svEtemp.num) else none
  | .svPosX => if s.svPos.valid then some (.half s.svPos.x) else none
  | .svPosY => if s.svPos.valid then some (.half s.svPos.y) else none
  | .svOri => if s.svOri.valid then some (.half s.svOri.num) else none

/-- `PUSH` to a queue that has room (R22, U24). -/
def rxqHasRoom (q : List Frame) : Bool :=
  match Config.rxqDepth with
  | none => true
  | some depth => decide (q.length < depth)

/-- The next host move, and the state without it. -/
def nextMove (s : State) : Option (HostMove × State) :=
  match s.moves with
  | [] => none
  | m :: rest => some (m, s.setMoves rest)

/-! The numbers of R221 and R33. -/

def Status.code : Status → Nat
  | .ok => 0
  | .invalidField => 1
  | .malformedPayload => 2
  | .noValue => 3

def Signal.kind : Signal → SignalKind
  | .linearDisplacement _ => .linearDisplacement
  | .engineTemperature _ => .engineTemperature
  | .vehiclePosition _ _ => .vehiclePosition
  | .vehicleOrientation _ => .vehicleOrientation

def SignalKind.number : SignalKind → Nat
  | .linearDisplacement => 0
  | .engineTemperature => 1
  | .vehiclePosition => 2
  | .vehicleOrientation => 3

end Sys2Proof.Machine
end

