-- ==== Sys2Proof/Machine/Codec.lean ====
section
/-! DEFINITION. The identifier codec (40_identifier_codec.md): `DECODE` and `ENCODE`. -/

namespace Sys2Proof.Machine

/-- The fields of an identifier word (R105). -/
def identFields (id : Word) : Result :=
  .fields (idPri id) (idEdp id) (idDp id) (idPf id) (idPs id) (idSa id) (idPgn id)

/-- `encode` (R101): `none` is `InvalidField`, exactly when an operand exceeds its width (R102). -/
def packIdent (pri : Word) (edp dp : BitVec 1) (pgn sa : Word) : Option Word :=
  if pri.toNat > 7 ∨ pgn.toNat > 0xFFFF ∨ sa.toNat > 0xFF then none
  else some ((pri <<< 26) ||| (edp.setWidth 32 <<< 25) ||| (dp.setWidth 32 <<< 24) |||
    (pgn <<< 8) ||| sa)

/-- `DECODE id` (R105): never fails. -/
def execDecodeId (id : Word) (s : State) : Host.Outcome State Fault Refusal :=
  succeed (identFields id) s

/-- `ENCODE pri, edp, dp, pgn, sa` (R101). -/
def execEncodeId (pri : Word) (edp dp : BitVec 1) (pgn sa : Word) (s : State) :
    Host.Outcome State Fault Refusal :=
  match packIdent pri edp dp pgn sa with
  | some id => succeed (.ident id) s
  | none => raise .invalidField s

end Sys2Proof.Machine
end

