-- ==== Sys2Proof/Machine/Operands.lean ====
section
/-! DEFINITION. Operand forms: payload reads and writes (20_memory.md R52 to R55), the operands of
30_encoding.md R82, the minimum lengths of 41_pgn_dispatch.md R126 and the scale table of
43_signal_decoder.md R171. -/

namespace Sys2Proof.Machine

/-- `MemRead(i, 1)`: defined only when `i + 1 <= len` (R52, R53). -/
def memRead1 (p : List Byte) (i : Nat) : Option Byte := p[i]?

/-- `MemRead(i, 2)`: big-endian, lane `i` the most significant byte; defined only when
`i + 2 <= len` (R52, R53, R55). -/
def memRead2 (p : List Byte) (i : Nat) : Option Half :=
  match p[i]?, p[i + 1]? with
  | some hi, some lo => some (hi ++ lo)
  | _, _ => none

/-- `MemWrite(i, 1, v)` on an outbound payload (R54). -/
def memWrite1 (l : Lanes) (i : Fin 8) (v : Byte) : Lanes :=
  match i with
  | 0 => { l with l0 := v }
  | 1 => { l with l1 := v }
  | 2 => { l with l2 := v }
  | 3 => { l with l3 := v }
  | 4 => { l with l4 := v }
  | 5 => { l with l5 := v }
  | 6 => { l with l6 := v }
  | 7 => { l with l7 := v }

/-- All eight lanes the same byte (R54, R80). -/
def fillLanes (v : Byte) : Lanes := ⟨v, v, v, v, v, v, v, v⟩

/-- `int16(w)` (R12). -/
def int16 (w : Half) : Int := w.toInt

/-- The FMI operand: `MemRead(4, 1) & 0x1F` (R82). -/
def fmiOperand (p : List Byte) : Option Byte := (memRead1 p Config.fmiLane).map (· &&& Config.fmiMask)

/-- The engine temperature: unsigned byte minus 40, exact on integers, then held in an `i16`
(43_signal_decoder.md R175, D8). -/
def temperatureNumerator (b : Byte) : Half := BitVec.ofInt 16 (b.toNat - Config.temperatureOffset)

/-- `minlen(h)` (R126). `DROP` is not checked (R127). -/
def minlen : Handler → Nat
  | .bmpTach => 8
  | .bmpFuel => 8
  | .bmpTherm => 8
  | .dm1Lin => 5
  | .dm1Temp => 5
  | .dm1Pos => 5
  | .sigLin => 2
  | .sigEtemp => 1
  | .sigPos => 4
  | .sigOri => 3
  | .testAck => 0
  | .drop => 0

/-- The divisor of a signal (R171). -/
def SignalKind.divisor : SignalKind → Nat
  | .linearDisplacement => Config.linearDivisor
  | .engineTemperature => 1
  | .vehiclePosition => 1
  | .vehicleOrientation => Config.orientationDivisor

/-- The physical value `n / div`, an exact rational (R172, D9). -/
def SignalKind.physical (k : SignalKind) (n : Half) : Rat := mkRat (int16 n) k.divisor

end Sys2Proof.Machine
end

