-- ==== Sys2Proof/Machine/CommandEncoder.lean ====
section
/-! DEFINITION. The command encoder and the accessor (44_command_encoder.md): `BUILD.RESET`,
`BUILD.SETPOINT`, `ADJUST`, `READ`. -/

namespace Sys2Proof.Machine

/-- The identifier of a frame the block builds: the fixed fields, and the device address in the
source-address field (R190, D22). `none` is `InvalidField`, which these operands never give (R191). -/
def txIdent (pgn : Half) (addr : Byte) : Option Word :=
  packIdent Config.txPriority Config.txEdp Config.txDp (pgn.setWidth 32) (addr.setWidth 32)

/-- The device address of a reset selector (R192, preserved as observed); `none` outside 1 to 3
(R193, D21). -/
def resetAddress (sel : Byte) : Option Byte :=
  match sel.toNat with
  | 1 => some Config.addrLinear
  | 2 => some Config.addrPosition
  | 3 => some Config.addrThermal
  | _ => none

/-- The frame of `BUILD.RESET` (R191). -/
def resetFrame (sel : Byte) : Option (Word × Lanes) :=
  match resetAddress sel with
  | none => none
  | some addr => (txIdent Config.pgnDm1 addr).map (·, fillLanes 0)

/-- The frame of `BUILD.SETPOINT` (R195); `none` outside selectors 1 and 2 (R198, D21). -/
def setpointFrame (sel setpoint : Byte) : Option (Word × Lanes) :=
  let data := fillLanes Config.setpointFill
  match sel.toNat with
  | 1 => (txIdent Config.pgnTreadPosition Config.addrLinear).map (·, memWrite1 data 3 setpoint)
  | 2 => (txIdent Config.pgnHeaterSetpoint Config.addrThermal).map (·, memWrite1 data 0 setpoint)
  | _ => none

/-- A built frame goes to `OUT` and back to the caller (R191, R195); no frame is `InvalidField`. -/
def sendFrame (built : Option (Word × Lanes)) (s : State) : Host.Outcome State Fault Refusal :=
  match built with
  | some (id, data) => succeed (.frame id data) (s.emit (.frameOut id data))
  | none => raise .invalidField s

/-- `BUILD.RESET sel` (R191). It changes no fault register (R155). -/
def execBuildReset (sel : Byte) (s : State) : Host.Outcome State Fault Refusal :=
  sendFrame (resetFrame sel) s

/-- `BUILD.SETPOINT sel, setpoint` (R195). -/
def execBuildSetpoint (sel setpoint : Byte) (s : State) : Host.Outcome State Fault Refusal :=
  sendFrame (setpointFrame sel setpoint) s

/-- The adjust rule (R200): the sum modulo 256 (D23), then only 251 and 255 are remapped. -/
def adjustSetpoint (current delta : Byte) : Byte :=
  let sum := current + delta
  if sum = Config.setpointWrap then Config.setpointWrapTo
  else if sum = Config.setpointUnder then Config.setpointUnderTo
  else sum

/-- `ADJUST current, delta` (R200): a pure function, the block keeps no setpoint (R36). -/
def execAdjust (current delta : Byte) (s : State) : Host.Outcome State Fault Refusal :=
  succeed (.byte (adjustSetpoint current delta)) s

/-- `READ reg` (R205): no side effect (R206). -/
def execRead (reg : RegName) (s : State) : Host.Outcome State Fault Refusal :=
  match readRegister s reg with
  | some v => succeed v s
  | none => raise .noValue s

end Sys2Proof.Machine
end

