-- ==== Sys2Proof/Machine/Flags.lean ====
section
/-! DEFINITION. The fault bits. The block has no flags or condition codes (10_state.md R37); what it
computes bit by bit is the latched fault bitmap and its edge detector (42_fault_tracker.md R141,
R145). -/

namespace Sys2Proof.Machine

/-- The payload lanes that carry a fault indicator, 0 to 6; lane 7 is never inspected (R77). -/
def faultLanes : List Nat := List.range Config.bitmapUsedBits

/-- The loop of R141 over the lanes `is`: bit `i` of the working copy is set when lane `i` is
non-zero, and never cleared. `none`: a lane outside the payload was asked for. -/
def raiseIndicators (p : List Byte) : List Nat → Byte → Option Byte
  | [], work => some work
  | i :: is, work =>
    match memRead1 p i with
    | none => none
    | some b => raiseIndicators p is (if b ≠ 0 then work ||| (1#8 <<< i) else work)

/-- The edge detector: `prev ^ (work | prev)` (R141, R145). -/
def newFaultsMask (prev work : Byte) : Byte := prev ^^^ (work ||| prev)

end Sys2Proof.Machine
end

