-- ==== Sys2Proof/Machine/FaultTracker.lean ====
section
/-! DEFINITION. The fault tracker (42_fault_tracker.md): `BMP.*`, `DM1.*`, `FT.RESET`. A `handle…`
is a frame-selected operation without its caller; `exec…` is the instruction, whose caller is the
host. -/

namespace Sys2Proof.Machine

/-- `updateBitmap(s, f)` (R141). -/
def updateBitmap (sub : BitmapSub) (f : Frame) (s : State) : Handled :=
  match raiseIndicators f.data faultLanes (s.fb.get sub) with
  | none => .outOfBounds
  | some work =>
    let mask := newFaultsMask (s.fb.get sub) work
    let t := (s.setFb sub work).setNf sub mask
    .done (if mask ≠ 0 then t.emit (.newFault sub work mask) else t)

/-- `updateDm1(d, f)` (R147). -/
def updateDm1 (d : Dm1Sub) (f : Frame) (s : State) : Handled :=
  match fmiOperand f.data with
  | none => .outOfBounds
  | some fmi => .done ((s.setFmi d fmi).emit (.fmiChanged d fmi))

/-- `BMP.TACH` (R142). -/
def handleBmpTach (f : Frame) (s : State) : Handled :=
  guardLength (minlen .bmpTach) f (updateBitmap .tachometer f s)

/-- `BMP.FUEL` (R143). -/
def handleBmpFuel (f : Frame) (s : State) : Handled :=
  guardLength (minlen .bmpFuel) f (updateBitmap .fuelGauge f s)

/-- `BMP.THERM` (R144). -/
def handleBmpTherm (f : Frame) (s : State) : Handled :=
  guardLength (minlen .bmpTherm) f (updateBitmap .thermometer f s)

/-- `DM1.LIN` (R148). -/
def handleDm1Lin (f : Frame) (s : State) : Handled :=
  guardLength (minlen .dm1Lin) f (updateDm1 .linear f s)

/-- `DM1.TEMP` (R149). -/
def handleDm1Temp (f : Frame) (s : State) : Handled :=
  guardLength (minlen .dm1Temp) f (updateDm1 .temperature f s)

/-- `DM1.POS` (R150). -/
def handleDm1Pos (f : Frame) (s : State) : Handled :=
  guardLength (minlen .dm1Pos) f (updateDm1 .position f s)

/-- `BMP.TACH` for the host. -/
def execBmpTach (f : Frame) (s : State) : Host.Outcome State Fault Refusal :=
  returnToHost s (handleBmpTach f s)

/-- `BMP.FUEL` for the host. -/
def execBmpFuel (f : Frame) (s : State) : Host.Outcome State Fault Refusal :=
  returnToHost s (handleBmpFuel f s)

/-- `BMP.THERM` for the host. -/
def execBmpTherm (f : Frame) (s : State) : Host.Outcome State Fault Refusal :=
  returnToHost s (handleBmpTherm f s)

/-- `DM1.LIN` for the host. -/
def execDm1Lin (f : Frame) (s : State) : Host.Outcome State Fault Refusal :=
  returnToHost s (handleDm1Lin f s)

/-- `DM1.TEMP` for the host. -/
def execDm1Temp (f : Frame) (s : State) : Host.Outcome State Fault Refusal :=
  returnToHost s (handleDm1Temp f s)

/-- `DM1.POS` for the host. -/
def execDm1Pos (f : Frame) (s : State) : Host.Outcome State Fault Refusal :=
  returnToHost s (handleDm1Pos f s)

/-- `FT.RESET sub` (R152): the sentinel for a bitmap subsystem, no effect for a DM1 subsystem
(R153). `NF` is left alone and no event is emitted (D24). -/
def execFtReset (sub : Subsystem) (s : State) : Host.Outcome State Fault Refusal :=
  match sub with
  | .bitmap b => succeed .empty (s.setFb b Config.sentinel)
  | .dm1 _ => succeed .empty s

end Sys2Proof.Machine
end

