-- ==== Sys2Proof/Machine/SignalDecoder.lean ====
section
/-! DEFINITION. The signal decoder (43_signal_decoder.md): `SIG.LIN`, `SIG.ETEMP`, `SIG.POS`,
`SIG.ORI`. Every successful decode notifies, also when the value is the one already held (R181). -/

namespace Sys2Proof.Machine

/-- The body of `SIG.LIN` (R173): lanes 0 and 1. -/
def extractLin (f : Frame) (s : State) : Handled :=
  match memRead2 f.data 0 with
  | none => .outOfBounds
  | some n => .done ((s.setSvLin n).emit (.signalChanged (.linearDisplacement n)))

/-- The body of `SIG.ETEMP` (R175): lane 0. -/
def extractEtemp (f : Frame) (s : State) : Handled :=
  match memRead1 f.data 0 with
  | none => .outOfBounds
  | some b =>
    let n := temperatureNumerator b
    .done ((s.setSvEtemp n).emit (.signalChanged (.engineTemperature n)))

/-- The body of `SIG.POS` (R177): lanes 0 and 1, lanes 2 and 3; both coordinates or none. -/
def extractPos (f : Frame) (s : State) : Handled :=
  match memRead2 f.data 0, memRead2 f.data 2 with
  | some x, some y => .done ((s.setSvPos x y).emit (.signalChanged (.vehiclePosition x y)))
  | _, _ => .outOfBounds

/-- The body of `SIG.ORI` (R179): lanes 1 and 2; lane 0 is not read. -/
def extractOri (f : Frame) (s : State) : Handled :=
  match memRead2 f.data 1 with
  | none => .outOfBounds
  | some n => .done ((s.setSvOri n).emit (.signalChanged (.vehicleOrientation n)))

/-- `SIG.LIN` (R173). -/
def handleSigLin (f : Frame) (s : State) : Handled :=
  guardLength (minlen .sigLin) f (extractLin f s)

/-- `SIG.ETEMP` (R175). -/
def handleSigEtemp (f : Frame) (s : State) : Handled :=
  guardLength (minlen .sigEtemp) f (extractEtemp f s)

/-- `SIG.POS` (R177). -/
def handleSigPos (f : Frame) (s : State) : Handled :=
  guardLength (minlen .sigPos) f (extractPos f s)

/-- `SIG.ORI` (R179). -/
def handleSigOri (f : Frame) (s : State) : Handled :=
  guardLength (minlen .sigOri) f (extractOri f s)

/-- `SIG.LIN` for the host. -/
def execSigLin (f : Frame) (s : State) : Host.Outcome State Fault Refusal :=
  returnToHost s (handleSigLin f s)

/-- `SIG.ETEMP` for the host. -/
def execSigEtemp (f : Frame) (s : State) : Host.Outcome State Fault Refusal :=
  returnToHost s (handleSigEtemp f s)

/-- `SIG.POS` for the host. -/
def execSigPos (f : Frame) (s : State) : Host.Outcome State Fault Refusal :=
  returnToHost s (handleSigPos f s)

/-- `SIG.ORI` for the host. -/
def execSigOri (f : Frame) (s : State) : Host.Outcome State Fault Refusal :=
  returnToHost s (handleSigOri f s)

end Sys2Proof.Machine
end

