-- ==== Sys2Proof/Machine/Dispatcher.lean ====
section
/-! DEFINITION. The PGN dispatcher (41_pgn_dispatch.md): `TEST.ACK`, `DROP`, `DISPATCH`, `DRAIN`. -/

namespace Sys2Proof.Machine

/-- `TEST.ACK` (R129): one `FrameOut` of the open parameter `ACK_FRAME`; `minlen` is 0. -/
def handleTestAck (f : Frame) (s : State) : Handled :=
  guardLength (minlen .testAck) f (.done (s.emit (.frameOut Config.ackId Config.ackData)))

/-- `DROP` (R127): no error, no side effect, whatever the length. -/
def handleDrop (_f : Frame) (s : State) : Handled := .done s

/-- The body of `DISPATCH` (R122): selection, then the length check, then the handler (R230). -/
def handle (f : Frame) (s : State) : Handled :=
  match select f.id with
  | .bmpTach => handleBmpTach f s
  | .bmpFuel => handleBmpFuel f s
  | .bmpTherm => handleBmpTherm f s
  | .dm1Lin => handleDm1Lin f s
  | .dm1Temp => handleDm1Temp f s
  | .dm1Pos => handleDm1Pos f s
  | .sigLin => handleSigLin f s
  | .sigEtemp => handleSigEtemp f s
  | .sigPos => handleSigPos f s
  | .sigOri => handleSigOri f s
  | .testAck => handleTestAck f s
  | .drop => handleDrop f s

/-- The loop of `DRAIN` over the queue (R123): the frame leaves `RXQ`, is dispatched, and if that
raises an error the error is reported in `OUT` and the loop goes on (R124). -/
def drainQueue : List Frame → State → Host.Outcome State Fault Refusal
  | [], s => succeed .empty s
  | f :: q, s =>
    match handle f (s.setRxq q) with
    | .done t => drainQueue q t
    | .raised e => drainQueue q (reportFrameError e f.id (s.setRxq q))
    | .outOfBounds => .fault .laneOutOfBounds

/-- `TEST.ACK` for the host. -/
def execTestAck (f : Frame) (s : State) : Host.Outcome State Fault Refusal :=
  returnToHost s (handleTestAck f s)

/-- `DROP` for the host: status OK (R127). -/
def execDrop (f : Frame) (s : State) : Host.Outcome State Fault Refusal :=
  returnToHost s (handleDrop f s)

/-- `DISPATCH f` (R122). -/
def execDispatch (f : Frame) (s : State) : Host.Outcome State Fault Refusal :=
  returnToHost s (handle f s)

/-- `DRAIN` (R123): every frame of `RXQ` in arrival order, always status OK. -/
def execDrain (s : State) : Host.Outcome State Fault Refusal := drainQueue s.rxq s

end Sys2Proof.Machine
end

