-- ==== Sys2Proof/Machine/Dispatch.lean ====
section
/-! DEFINITION. The meaning of each instruction, one arm per constructor. -/

namespace Sys2Proof.Machine

def exec (i : Instr) (s : State) : Host.Outcome State Fault Refusal :=
  match i with
  | .bmpTach f => Sys2Proof.Machine.execBmpTach f s
  | .bmpFuel f => Sys2Proof.Machine.execBmpFuel f s
  | .bmpTherm f => Sys2Proof.Machine.execBmpTherm f s
  | .dm1Lin f => Sys2Proof.Machine.execDm1Lin f s
  | .dm1Temp f => Sys2Proof.Machine.execDm1Temp f s
  | .dm1Pos f => Sys2Proof.Machine.execDm1Pos f s
  | .sigLin f => Sys2Proof.Machine.execSigLin f s
  | .sigEtemp f => Sys2Proof.Machine.execSigEtemp f s
  | .sigPos f => Sys2Proof.Machine.execSigPos f s
  | .sigOri f => Sys2Proof.Machine.execSigOri f s
  | .testAck f => Sys2Proof.Machine.execTestAck f s
  | .drop f => Sys2Proof.Machine.execDrop f s
  | .decodeId id => Sys2Proof.Machine.execDecodeId id s
  | .encodeId pri edp dp pgn sa => Sys2Proof.Machine.execEncodeId pri edp dp pgn sa s
  | .dispatch f => Sys2Proof.Machine.execDispatch f s
  | .drain => Sys2Proof.Machine.execDrain s
  | .ftReset sub => Sys2Proof.Machine.execFtReset sub s
  | .buildReset sel => Sys2Proof.Machine.execBuildReset sel s
  | .buildSetpoint sel setpoint => Sys2Proof.Machine.execBuildSetpoint sel setpoint s
  | .adjust current delta => Sys2Proof.Machine.execAdjust current delta s
  | .read reg => Sys2Proof.Machine.execRead reg s

end Sys2Proof.Machine
end

