-- ==== Sys2Proof/Machine/HostMoves.lean ====
section
/-! DEFINITION. The moves of the host (60_exceptions.md R241): `PUSH` (R121), hardware reset (R250), an
operation; and the pseudo-operations of 30_encoding.md R92 as the moves they expand to. -/

namespace Sys2Proof.Machine

/-- The refusal of an encoding the decoder rejects (R90). -/
def refusalOf : DecodeError → Refusal
  | .reservedLength => .reservedLength
  | .reservedTag => .reservedTag
  | .reservedSubsystem => .reservedSubsystem
  | .reservedRegister => .reservedRegister

/-- `PUSH f` (R121): `RXQ <- RXQ ++ [f]`, nothing else, the frame is not examined. Not a command, so
no reply. -/
def execPush (raw : RawFrame) (s : State) : Host.Outcome State Fault Refusal :=
  match raw.frame with
  | .error e => .refused (refusalOf e)
  | .ok f => if rxqHasRoom s.rxq then .next (s.setRxq (s.rxq ++ [f])) else .refused .queueFull

/-- Hardware reset (R250): every piece of state at its reset value; the moves the host has still to
make are the host's, and stay (log 14). -/
def hardwareReset (s : State) : State := State.reset.setMoves s.moves

/-- One move of the host. -/
def perform (m : HostMove) (s : State) : Host.Outcome State Fault Refusal :=
  match m with
  | .push raw => execPush raw s
  | .reset => .next (hardwareReset s)
  | .request r =>
    match decode r with
    | .ok i => exec i s
    | .error e => .refused (refusalOf e)

/-! Pseudo-operations (R92). -/

/-- A command as a host move. -/
def commandMove (i : Instr) : HostMove := .request (encode i)

/-- `FEED f` is `PUSH f` then `DRAIN`. -/
def feedMoves (raw : RawFrame) : List HostMove := [.push raw, commandMove .drain]

/-- `RESETFRAME.LINEAR` is `BUILD.RESET 1`. -/
def resetFrameLinear : List HostMove := [commandMove (.buildReset 1)]

/-- `RESETFRAME.POSITION` is `BUILD.RESET 2`. -/
def resetFramePosition : List HostMove := [commandMove (.buildReset 2)]

/-- `RESETFRAME.TEMPERATURE` is `BUILD.RESET 3`. -/
def resetFrameTemperature : List HostMove := [commandMove (.buildReset 3)]

/-- `SETPOINT.TREAD v` is `BUILD.SETPOINT 1, v`. -/
def setpointTread (v : Byte) : List HostMove := [commandMove (.buildSetpoint 1 v)]

/-- `SETPOINT.HEATER v` is `BUILD.SETPOINT 2, v`. -/
def setpointHeater (v : Byte) : List HostMove := [commandMove (.buildSetpoint 2 v)]

/-- `TXID pgn, sa` is `ENCODE 6, 0, 0, pgn, sa`. -/
def txId (pgn sa : Word) : List HostMove :=
  [commandMove (.encodeId Config.txPriority Config.txEdp Config.txDp pgn sa)]

end Sys2Proof.Machine
end

