-- ==== Sys2Proof/Machine/Step.lean ====
section
/-! DEFINITION. One step: the next move of the host is performed to completion (00_scope.md R14). There
is no program counter (10_state.md R22); with no move pending the block is idle (log 1). -/

namespace Sys2Proof.Machine

/-- One step of the machine. -/
def step (s : State) : Host.Outcome State Fault Refusal :=
  match nextMove s with
  | none => .next s
  | some (m, t) => perform m t

/-- The state whose next step runs the instruction of an opcode-table word: the host presents it as
its next move (log 2, log 13). -/
def State.withFetchWord (s : State) (nbits w : Nat) : State :=
  match tableRequest nbits w with
  | some r => s.setMoves (.request r :: s.moves)
  | none => s

end Sys2Proof.Machine
end

