-- ==== Sys2Proof/Safety.lean ====
section
/-! DEFINITION. The terms claims are stated in: the legal values of the state, the host moves the
interface admits, which handlers an instruction runs, and which lanes a handler reads. -/

namespace Sys2Proof.Machine

/-- An event the block may emit (10_state.md R33): a new-fault mask is non-zero, inside the bitmap and
without bit 7 (R25); an FMI is at most 31; a temperature is -40 to 215; bits 31:29 of an outbound
identifier are zero; the only frame error is `MalformedPayload`. -/
def Event.Legal : Event → Prop
  | .signalChanged (.engineTemperature n) => -40 ≤ n.toInt ∧ n.toInt ≤ 215
  | .signalChanged _ => True
  | .newFault _ bitmap mask =>
    mask ≠ 0 ∧ mask &&& ~~~bitmap = 0 ∧ mask.getLsbD 7 = false ∧ bitmap.getLsbD 7 = true
  | .fmiChanged _ fmi => fmi.toNat ≤ 31
  | .frameOut id _ => id.toNat < 2 ^ 29
  | .frameError kind _ => kind = .malformedPayload

/-- The legal values of the state (R23, R25, R26, R29, R22, R33). -/
structure State.Inv (s : State) : Prop where
  /-- Bit 7 of `FB[s]` reads 1 at all times (R23). -/
  fbSentinel : ∀ b, (s.fb.get b).getLsbD 7 = true
  /-- Bit 7 of `NF[s]` is always 0 (R25). -/
  nfNoSentinel : ∀ b, (s.nf.get b).getLsbD 7 = false
  /-- Bits 7:5 of `FMI[d]` are always 0 (R26). -/
  fmiCode : ∀ d, (s.fmi.get d).toNat ≤ 31
  /-- `SV_ETEMP`, once it holds a value, is -40 to 215 (R29, R32). -/
  etempRange : s.svEtemp.valid = true → -40 ≤ s.svEtemp.num.toInt ∧ s.svEtemp.num.toInt ≤ 215
  /-- Every queued frame has 0 to 8 valid lanes (R22). -/
  rxqLengths : ∀ f ∈ s.rxq, f.data.length ≤ 8
  /-- Every event handed out is legal. -/
  outLegal : ∀ e ∈ s.out, e.Legal

/-- `NewFaults` is a subset of the bitmap (R25, R145). -/
def State.NewFaultsInside (s : State) : Prop := ∀ b, s.nf.get b &&& ~~~(s.fb.get b) = 0

/-- The two states hold the same values in every register `READ` can name (R89). -/
def State.SameRegisters (s t : State) : Prop :=
  s.fb = t.fb ∧ s.nf = t.nf ∧ s.fmi = t.fmi ∧ s.svLin = t.svLin ∧ s.svEtemp = t.svEtemp ∧
    s.svPos = t.svPos ∧ s.svOri = t.svOri

/-- A command the interface admits: no reserved encoding of R90 on a port the command reads. -/
def admitsCommand (p : CommandPorts) : Bool :=
  decide (p.op.toNat ≤ 8) &&
    (p.op != 2 || decide (p.frame.len.toNat ≤ 8)) &&
    (p.op != 4 || decide (p.sub.toNat ≤ 5)) &&
    (p.op != 8 || decide (p.reg.toNat ≤ 13))

/-- A host move the interface admits (R90, R241). -/
def admits : HostMove → Bool
  | .push raw => decide (raw.len.toNat ≤ 8)
  | .request (.frame raw) => decide (raw.len.toNat ≤ 8)
  | .request (.command p) => admitsCommand p
  | .reset => true

/-- The instruction of a bitmap subsystem (R142 to R144). -/
def bitmapInstr : BitmapSub → Frame → Instr
  | .tachometer, f => .bmpTach f
  | .fuelGauge, f => .bmpFuel f
  | .thermometer, f => .bmpTherm f

/-- The handler that writes the registers of a bitmap subsystem (R40). -/
def bitmapHandler : BitmapSub → Handler
  | .tachometer => .bmpTach
  | .fuelGauge => .bmpFuel
  | .thermometer => .bmpTherm

/-- The instruction of a DM1 subsystem (R148 to R150). -/
def dm1Instr : Dm1Sub → Frame → Instr
  | .linear, f => .dm1Lin f
  | .temperature, f => .dm1Temp f
  | .position, f => .dm1Pos f

/-- The handler that writes the FMI of a DM1 subsystem (R40). -/
def dm1Handler : Dm1Sub → Handler
  | .linear => .dm1Lin
  | .temperature => .dm1Temp
  | .position => .dm1Pos

/-- The handlers an instruction runs when it starts in `s`, in order (R122, R123). -/
def handlersRun (s : State) : Instr → List Handler
  | .bmpTach _ => [.bmpTach]
  | .bmpFuel _ => [.bmpFuel]
  | .bmpTherm _ => [.bmpTherm]
  | .dm1Lin _ => [.dm1Lin]
  | .dm1Temp _ => [.dm1Temp]
  | .dm1Pos _ => [.dm1Pos]
  | .sigLin _ => [.sigLin]
  | .sigEtemp _ => [.sigEtemp]
  | .sigPos _ => [.sigPos]
  | .sigOri _ => [.sigOri]
  | .testAck _ => [.testAck]
  | .drop _ => [.drop]
  | .dispatch f => [select f.id]
  | .drain => s.rxq.map fun f => select f.id
  | .decodeId _ => []
  | .encodeId _ _ _ _ _ => []
  | .ftReset _ => []
  | .buildReset _ => []
  | .buildSetpoint _ _ => []
  | .adjust _ _ => []
  | .read _ => []

/-- The lanes a handler reads (20_memory.md R51). -/
def lanesRead : Handler → List Nat
  | .bmpTach => [0, 1, 2, 3, 4, 5, 6]
  | .bmpFuel => [0, 1, 2, 3, 4, 5, 6]
  | .bmpTherm => [0, 1, 2, 3, 4, 5, 6]
  | .dm1Lin => [4]
  | .dm1Temp => [4]
  | .dm1Pos => [4]
  | .sigLin => [0, 1]
  | .sigEtemp => [0]
  | .sigPos => [0, 1, 2, 3]
  | .sigOri => [1, 2]
  | .testAck => []
  | .drop => []

end Sys2Proof.Machine
end

