-- ==== Sys2Proof/Certificates/Slice0/Obligations.lean ====
section
/-! DEFINITION. The statements for the provers, from the numbered rules of the spec. A next state is
written as the record update the rules allow, so every statement of a result is also its frame: what
the update does not name is unchanged. -/

open Sys2Proof Sys2Proof.Machine

/-! ## Reset and the invariant -/

/-- The state right after reset, row by row of R38 (the values of `NF`, the valid marks, `RXQ` and
`OUT` are the spec's decisions D10, D11, D28; the empty `replies` and `moves` are log 1 and log 3). -/
def Obligations.ResetStateHoldsTheTable : Prop :=
  (∀ b, State.reset.fb.get b = 0x80) ∧ (∀ d, State.reset.fmi.get d = 0) ∧
  (∀ b, State.reset.nf.get b = 0) ∧
  State.reset.svLin.valid = false ∧ State.reset.svEtemp.valid = false ∧
  State.reset.svPos.valid = false ∧ State.reset.svOri.valid = false ∧
  State.reset.rxq = [] ∧ State.reset.out = [] ∧ State.reset.replies = [] ∧ State.reset.moves = []

/-- The legal values of R22, R23, R25, R26, R29 and R33 hold right after reset. -/
def Obligations.ResetMeetsTheLegalValues : Prop := State.reset.Inv

/-- Every step keeps the legal values: bit 7 of `FB` reads 1 (R23), bit 7 of `NF` is 0 (R25), bits
7:5 of `FMI` are 0 (R26), a held `SV_ETEMP` is in range (R29), a queued frame has at most 8 lanes
(R22), every event of `OUT` is legal (R33). -/
def Obligations.StepKeepsTheLegalValues : Prop :=
  ∀ s t : State, s.Inv → step s = .next t → t.Inv

/-- Hardware reset (R250, R251) puts every piece of the block's state at its reset value; that the
moves still to come stay is log 14. -/
def Obligations.HardwareResetRestoresResetState : Prop :=
  ∀ (s : State) (rest : List HostMove), s.moves = .reset :: rest →
    step s = .next { State.reset with moves := rest }

/-! ## Encodings and selection -/

/-- Decoding the encoding of a well-formed instruction gives it back: frames with every identifier
and payload their row admits (R75, R84), commands with every operand value (R86, R88, R89). -/
def Obligations.DecodeInvertsEncode : Prop :=
  ∀ i : Instr, i.wf = true → decode (encode i) = .ok i

/-- What the decoder accepts is well formed: the payload has 0 to 8 bytes and the identifier matches
the row of the mask and match table of R84. -/
def Obligations.DecodedInstructionsAreWellFormed : Prop :=
  ∀ (r : Request) (i : Instr), decode r = .ok i → i.wf = true

/-- `select` is the function of R120, on the value of the identifier word. That a DM1 frame from
another address falls to `DROP` is the spec's decision D14, and which bitmap subsystem each DTC PGN
feeds is D13 (both log 12). -/
def Obligations.SelectionFollowsPgnAndAddress : Prop :=
  ∀ id : Word,
    let pgn := id.toNat / 2 ^ 8 % 2 ^ 16
    let sa := id.toNat % 2 ^ 8
    select id =
      if pgn = 0xBEB0 then .bmpTach
      else if pgn = 0xBEBA then .bmpFuel
      else if pgn = 0xBEEF then .bmpTherm
      else if pgn = 0xFECA ∧ sa = 0x48 then .dm1Lin
      else if pgn = 0xFECA ∧ sa = 0x50 then .dm1Temp
      else if pgn = 0xFECA ∧ sa = 0x63 then .dm1Pos
      else if pgn = 0xF032 then .sigLin
      else if pgn = 0xFEEE then .sigEtemp
      else if pgn = 0xFEE9 then .sigPos
      else if pgn = 0xFFFF then .sigOri
      else if pgn = 0xFFBB then .testAck
      else .drop

/-- The selection of R120 is the mask and match table of R84, for every identifier word, and no word
matches two rows of that table, `DROP` being tried last (the pairing of the DTC names is D13). -/
def Obligations.SelectionIsTheMaskTable : Prop :=
  ∀ id : Word, select id = tableSelect id ∧
    ∀ r ∈ frameTable, ∀ q ∈ frameTable, r.hits id = true → q.hits id = true → r = q

/-- Selection reads neither bits 31:24 (R71, R81) nor, unless the PGN is 0xFECA, the source address
(R81). -/
def Obligations.SelectionIgnoresTheOtherFields : Prop :=
  ∀ id : Word, select (id &&& 0x00FFFFFF) = select id ∧
    (id.toNat / 2 ^ 8 % 2 ^ 16 ≠ 0xFECA → select (id &&& 0x00FFFF00) = select id)

/-- Words written out from the tables of R70, R84, R86 and R89 decode to the instruction they stand
for (a sanity statement; the tags and register numbers are D3 and D30). -/
def Obligations.WrittenWordsDecode : Prop :=
  decode (.frame ⟨0x18BEB010, 8, ⟨1, 0, 0, 0, 0, 0, 0, 0⟩⟩) =
    .ok (.bmpTach ⟨0x18BEB010, [1, 0, 0, 0, 0, 0, 0, 0]⟩) ∧
  decode (.frame ⟨0x18FECA63, 5, ⟨0xFF, 0xFF, 0xFF, 0xFF, 0xE5, 0, 0, 0⟩⟩) =
    .ok (.dm1Pos ⟨0x18FECA63, [0xFF, 0xFF, 0xFF, 0xFF, 0xE5]⟩) ∧
  decode (.frame ⟨0x0CF03248, 2, ⟨0x04, 0xD2, 0, 0, 0, 0, 0, 0⟩⟩) =
    .ok (.sigLin ⟨0x0CF03248, [0x04, 0xD2]⟩) ∧
  decode (.command { tagPorts 0x1 with pri := 6, pgn := 0xFECA, sa := 0x48 }) =
    .ok (.encodeId 6 0 0 0xFECA 0x48) ∧
  decode (.command { tagPorts 0x8 with reg := 13 }) = .ok (.read .svOri)

/-- A reserved encoding of R90 is refused by its name: a length above 8, a tag above 8, a subsystem
above 5, a register above 13. -/
def Obligations.ReservedEncodingsAreRefusedByName : Prop :=
  ∀ (s : State) (rest : List HostMove),
    (∀ raw : RawFrame, 8 < raw.len.toNat →
      (s.moves = .push raw :: rest ∨ s.moves = .request (.frame raw) :: rest) →
      step s = .refused .reservedLength) ∧
    (∀ p : CommandPorts, s.moves = .request (.command p) :: rest →
      (8 < p.op.toNat → step s = .refused .reservedTag) ∧
      (p.op = 2 → 8 < p.frame.len.toNat → step s = .refused .reservedLength) ∧
      (p.op = 4 → 5 < p.sub.toNat → step s = .refused .reservedSubsystem) ∧
      (p.op = 8 → 13 < p.reg.toNat → step s = .refused .reservedRegister))

/-! ## The step -/

/-- A step runs the decoded instruction: when the host's next move is a request that decodes to `i`,
the step is `exec i` on the state without that move. -/
def Obligations.StepRunsTheDecodedInstruction : Prop :=
  ∀ (s : State) (r : Request) (rest : List HostMove) (i : Instr),
    s.moves = .request r :: rest → decode r = .ok i → step s = exec i { s with moves := rest }

/-- The word placed by `withFetchWord` is what the next step runs. -/
def Obligations.FetchedTableWordRunsNext : Prop :=
  ∀ (s : State) (nbits w : Nat) (i : Instr),
    decodeTableWord nbits w = some i → step (s.withFetchWord nbits w) = exec i s

/-- `PUSH` (R121) appends the frame's valid lanes at the tail of `RXQ`, unexamined, and changes
nothing else; a queue of any length has room (D26, log 8). -/
def Obligations.PushAppendsTheFrame : Prop :=
  ∀ (s : State) (raw : RawFrame) (rest : List HostMove),
    s.moves = .push raw :: rest → raw.len.toNat ≤ 8 →
    step s = .next { s with
      moves := rest
      rxq := s.rxq ++ [⟨raw.id, [raw.lanes.l0, raw.lanes.l1, raw.lanes.l2, raw.lanes.l3,
        raw.lanes.l4, raw.lanes.l5, raw.lanes.l6, raw.lanes.l7].take raw.len.toNat⟩] }

/-- Every instruction completes, in every state and with every operand: the block has no fatal
condition (R228) and every operation terminates (R263). -/
def Obligations.EveryInstructionCompletes : Prop :=
  ∀ (i : Instr) (s : State), ∃ t, exec i s = .next t

/-- A step stops only on a reserved encoding: it never faults (no lane outside the payload is ever
read, R52, R126), and it answers a next state exactly when no move is pending or the next move is one
the interface admits (R90). Model's choices in it: with no move pending the step is idle (log 1); an
admitted `PUSH` always finds room, `RXQ` being unbounded (D26, log 8, unsafe for a finite queue). -/
def Obligations.StepStopsOnlyOnReservedEncodings : Prop :=
  ∀ s : State, (∀ r, step s ≠ .fault r) ∧
    ((∃ t, step s = .next t) ↔ ∀ m ∈ s.moves.head?, admits m = true)

/-- A run of admitted moves ends, after as many steps as there are moves, with none left (R263, R264).
Model's choices in it: the list of moves (log 1), `PUSH` always finding room (D26, log 8, unsafe for a
finite queue), hardware reset keeping the moves still to come (log 14). -/
def Obligations.AdmittedRunsComplete : Prop :=
  ∀ s : State, (∀ m ∈ s.moves, admits m = true) →
    ∃ t, core.run s.moves.length s = .next t ∧ t.moves = []

/-! ## What an operation may change -/

/-- The access table (R40): a register changes only by the operations of its own column, where an
instruction that handles frames (`DISPATCH`, `DRAIN`) counts as the handlers its frames select; only
`DRAIN` changes `RXQ`; no instruction touches the host's pending moves. -/
def Obligations.OnlyTheOwnOperationsWriteARegister : Prop :=
  ∀ (i : Instr) (s t : State), exec i s = .next t →
    (∀ b, t.fb.get b ≠ s.fb.get b → bitmapHandler b ∈ handlersRun s i ∨ i = .ftReset (.bitmap b)) ∧
    (∀ b, t.nf.get b ≠ s.nf.get b → bitmapHandler b ∈ handlersRun s i) ∧
    (∀ d, t.fmi.get d ≠ s.fmi.get d → dm1Handler d ∈ handlersRun s i) ∧
    (t.svLin ≠ s.svLin → .sigLin ∈ handlersRun s i) ∧
    (t.svEtemp ≠ s.svEtemp → .sigEtemp ∈ handlersRun s i) ∧
    (t.svPos ≠ s.svPos → .sigPos ∈ handlersRun s i) ∧
    (t.svOri ≠ s.svOri → .sigOri ∈ handlersRun s i) ∧
    (t.rxq ≠ s.rxq → i = .drain) ∧
    t.moves = s.moves

/-- `OUT` is append-only, and one operation appends at most one event, a `DRAIN` at most one per
queued frame (R33, R34). -/
def Obligations.OutputStreamOnlyGrows : Prop :=
  ∀ (i : Instr) (s t : State), exec i s = .next t →
    ∃ new, t.out = s.out ++ new ∧ new.length ≤ (if i = .drain then s.rxq.length else 1)

/-- Every operation gives exactly one status back, and one its row of R224 allows. -/
def Obligations.EveryOperationReturnsAnAllowedStatus : Prop :=
  ∀ (i : Instr) (s t : State), exec i s = .next t →
    ∃ r, t.replies = s.replies ++ [r] ∧
      (r.status = .ok ∨
        (r.status = .invalidField ∧
          ((∃ pri edp dp pgn sa, i = .encodeId pri edp dp pgn sa) ∨ (∃ sel, i = .buildReset sel) ∨
            ∃ sel v, i = .buildSetpoint sel v)) ∨
        (r.status = .malformedPayload ∧ handlersRun s i ≠ [] ∧ i ≠ .drain) ∨
        (r.status = .noValue ∧ ∃ reg, i = .read reg))

/-- An operation that ends in an error returns no result and changes nothing else: no register, no
valid mark, no event (R226; the reading is D17). -/
def Obligations.ErrorsLeaveNoTrace : Prop :=
  ∀ (i : Instr) (s t : State) (r : Reply), exec i s = .next t → t.replies = s.replies ++ [r] →
    r.status ≠ .ok → r.result = .empty ∧ t = { s with replies := s.replies ++ [r] }

/-- A latched fault bit is cleared by no instruction but `FT.RESET` of its own subsystem (R23,
R146). -/
def Obligations.FaultBitsStayLatched : Prop :=
  ∀ (i : Instr) (s t : State) (b : BitmapSub), exec i s = .next t → i ≠ .ftReset (.bitmap b) →
    t.fb.get b &&& s.fb.get b = s.fb.get b

/-- No instruction clears a valid mark (R28 to R31). -/
def Obligations.ValidMarksAreNeverCleared : Prop :=
  ∀ (i : Instr) (s t : State), exec i s = .next t →
    (s.svLin.valid = true → t.svLin.valid = true) ∧
    (s.svEtemp.valid = true → t.svEtemp.valid = true) ∧
    (s.svPos.valid = true → t.svPos.valid = true) ∧
    (s.svOri.valid = true → t.svOri.valid = true)

/-- Hardware reset is the only event that clears a valid mark or empties `OUT`, the only one besides a
DM1 frame that changes an FMI, and the only one besides a bitmap frame that changes an `NF` (R251):
any other step keeps them. -/
def Obligations.OnlyHardwareResetForgets : Prop :=
  ∀ s t : State, step s = .next t → s.moves.head? ≠ some .reset →
    let ran (h : Handler) : Prop := ∃ r i, s.moves.head? = some (.request r) ∧ decode r = .ok i ∧
      h ∈ handlersRun s i
    (∃ new, t.out = s.out ++ new) ∧
    (s.svLin.valid = true → t.svLin.valid = true) ∧
    (s.svEtemp.valid = true → t.svEtemp.valid = true) ∧
    (s.svPos.valid = true → t.svPos.valid = true) ∧
    (s.svOri.valid = true → t.svOri.valid = true) ∧
    (∀ d, t.fmi.get d ≠ s.fmi.get d → ran (dm1Handler d)) ∧
    (∀ b, t.nf.get b ≠ s.nf.get b → ran (bitmapHandler b))

/-- Every instruction but `FT.RESET` keeps `NewFaults` inside the bitmap (R25, R145). That `FT.RESET`
does not is the next statement. -/
def Obligations.NewFaultsStayInsideUntilReset : Prop :=
  ∀ (i : Instr) (s t : State), exec i s = .next t → (∀ b, i ≠ .ftReset (.bitmap b)) →
    s.NewFaultsInside → t.NewFaultsInside

/-- `FT.RESET` keeps `NF` (R152, vector FR1), so right after it `NewFaults` need not be a subset of
the bitmap: R25's "at all times" does not hold there. The model follows R152 (log 11). -/
def Obligations.ResetCanLeaveNewFaultsOutside : Prop :=
  ∃ s t : State, s.Inv ∧ s.NewFaultsInside ∧
    exec (.ftReset (.bitmap .tachometer)) s = .next t ∧ ¬ t.NewFaultsInside

/-! ## The identifier codec -/

/-- `DECODE` (R105) returns the seven fields, by shift and mask on the value of the word, for every
word and in every state, and changes nothing else. The first clause, its tag 0x0, rests on the
spec's decision D3 and on the model's port record (log 4, unsafe for a statement about a tag). -/
def Obligations.DecodeReturnsTheFields : Prop :=
  (∀ p : CommandPorts, p.op = 0x0 → decode (.command p) = .ok (.decodeId p.id)) ∧
  ∀ (id : Word) (s : State),
    exec (.decodeId id) s = .next { s with replies := s.replies ++ [⟨.ok, .fields
      (BitVec.ofNat 3 (id.toNat / 2 ^ 26 % 2 ^ 3)) (BitVec.ofNat 1 (id.toNat / 2 ^ 25 % 2))
      (BitVec.ofNat 1 (id.toNat / 2 ^ 24 % 2)) (BitVec.ofNat 8 (id.toNat / 2 ^ 16 % 2 ^ 8))
      (BitVec.ofNat 8 (id.toNat / 2 ^ 8 % 2 ^ 8)) (BitVec.ofNat 8 (id.toNat % 2 ^ 8))
      (BitVec.ofNat 16 (id.toNat / 2 ^ 8 % 2 ^ 16))⟩] }

/-- `ENCODE` (R101, R102): `InvalidField` and no result exactly when an operand exceeds its width,
else the packed word, whose five shifted fields do not overlap. -/
def Obligations.EncodeChecksThenPacks : Prop :=
  ∀ (pri : Word) (edp dp : BitVec 1) (pgn sa : Word) (s : State),
    exec (.encodeId pri edp dp pgn sa) s = .next { s with replies := s.replies ++ [
      if pri.toNat > 7 ∨ pgn.toNat > 0xFFFF ∨ sa.toNat > 0xFF then ⟨.invalidField, .empty⟩
      else ⟨.ok, .ident (BitVec.ofNat 32 (pri.toNat * 2 ^ 26 + edp.toNat * 2 ^ 25 +
        dp.toNat * 2 ^ 24 + pgn.toNat * 2 ^ 8 + sa.toNat))⟩] }

/-- Decode after encode reproduces every field (R108), as two commands of the host in a row. -/
def Obligations.DecodeAfterEncodeReproducesTheFields : Prop :=
  ∀ (pri : Word) (edp dp : BitVec 1) (pgn sa : Word) (s : State),
    pri.toNat ≤ 7 → pgn.toNat ≤ 0xFFFF → sa.toNat ≤ 0xFF →
    ∃ id t, exec (.encodeId pri edp dp pgn sa) s = .next t ∧
      t.replies = s.replies ++ [⟨.ok, .ident id⟩] ∧
      exec (.decodeId id) t = .next { t with replies := t.replies ++ [⟨.ok, .fields
        (BitVec.ofNat 3 pri.toNat) edp dp (BitVec.ofNat 8 (pgn.toNat / 2 ^ 8))
        (BitVec.ofNat 8 pgn.toNat) (BitVec.ofNat 8 sa.toNat) (BitVec.ofNat 16 pgn.toNat)⟩] }

/-- Encode after decode gives the word back with bits 31:29 zero (R109). -/
def Obligations.EncodeAfterDecodeClearsTheTopBits : Prop :=
  ∀ (id : Word) (s : State),
    exec (.encodeId ((idPri id).setWidth 32) (idEdp id) (idDp id) ((idPgn id).setWidth 32)
      ((idSa id).setWidth 32)) s =
      .next { s with replies := s.replies ++ [⟨.ok, .ident (id &&& 0x1FFFFFFF)⟩] }

/-- `ENCODE` is injective on its valid operands and its image is the words below 0x20000000 (R110). -/
def Obligations.EncodeIsInjectiveOntoTwentyNineBits : Prop :=
  (∀ (pri pri' : Word) (edp edp' dp dp' : BitVec 1) (pgn pgn' sa sa' id : Word),
    packIdent pri edp dp pgn sa = some id → packIdent pri' edp' dp' pgn' sa' = some id →
    pri = pri' ∧ edp = edp' ∧ dp = dp' ∧ pgn = pgn' ∧ sa = sa') ∧
  (∀ id : Word, (∃ pri edp dp pgn sa, packIdent pri edp dp pgn sa = some id) ↔
    id.toNat < 0x20000000)

/-! ## The dispatcher -/

/-- `DISPATCH f` is the operation its identifier selects; on a frame long enough for its handler it
completes with status OK, its queue and the host's moves untouched; on a shorter one it raises
`MalformedPayload` (R122). -/
def Obligations.DispatchRunsTheSelectedOperation : Prop :=
  ∀ (f : Frame) (s : State),
    exec (.dispatch f) s = exec ((select f.id).instr f) s ∧
    (minlen (select f.id) ≤ f.data.length → ∃ t, exec (.dispatch f) s = .next t ∧
      t.replies = s.replies ++ [⟨.ok, .empty⟩] ∧ t.rxq = s.rxq ∧ t.moves = s.moves) ∧
    (f.data.length < minlen (select f.id) → exec (.dispatch f) s =
      .next { s with replies := s.replies ++ [⟨.malformedPayload, .empty⟩] })

/-- A frame shorter than its handler's minimum raises `MalformedPayload` and changes nothing else
(R126, R223, R226; the signal minima are D16, the bitmap minimum is C4). -/
def Obligations.ShortFramesAreMalformed : Prop :=
  ∀ (f : Frame) (s : State),
    let malformed := Host.Outcome.next (φ := Fault) (ρ := Refusal)
      { s with replies := s.replies ++ [⟨.malformedPayload, .empty⟩] }
    (f.data.length < 8 → ∀ b, exec (bitmapInstr b f) s = malformed) ∧
    (f.data.length < 5 → ∀ d, exec (dm1Instr d f) s = malformed) ∧
    (f.data.length < 4 → exec (.sigPos f) s = malformed) ∧
    (f.data.length < 3 → exec (.sigOri f) s = malformed) ∧
    (f.data.length < 2 → exec (.sigLin f) s = malformed) ∧
    (f.data.length < 1 → exec (.sigEtemp f) s = malformed)

/-- A handler's effect depends only on the lanes it reads (R51): two frames long enough that agree on
those lanes act the same, whatever their identifiers and other lanes. -/
def Obligations.HandlersReadOnlyTheirLanes : Prop :=
  ∀ (h : Handler) (f g : Frame) (s : State),
    minlen h ≤ f.data.length → minlen h ≤ g.data.length →
    (∀ i ∈ lanesRead h, f.data[i]? = g.data[i]?) → exec (h.instr f) s = exec (h.instr g) s

/-- `DROP` (R127): nothing happens and the status is OK, whatever the length, when the frame is handed
in directly; inside a `DRAIN` the frame only leaves the queue. -/
def Obligations.DroppedFramesHaveNoEffect : Prop :=
  (∀ (f : Frame) (s : State),
    exec (.drop f) s = .next { s with replies := s.replies ++ [⟨.ok, .empty⟩] } ∧
    (select f.id = .drop →
      exec (.dispatch f) s = .next { s with replies := s.replies ++ [⟨.ok, .empty⟩] })) ∧
  (∀ (f : Frame) (q : List Frame) (s : State), s.rxq = f :: q → select f.id = .drop →
    exec .drain s = exec .drain { s with rxq := q })

/-- `TEST.ACK` (R129, D19): exactly one `FrameOut` of the open parameter `ACK_FRAME` on every frame,
whose identifier has bits 31:29 zero; no register changes. Nothing is said of the parameter's value. -/
def Obligations.TestFramesAreAcknowledged : Prop :=
  Config.ackId.toNat < 2 ^ 29 ∧
  ∀ (f : Frame) (s : State), exec (.testAck f) s = .next { s with
    out := s.out ++ [.frameOut Config.ackId Config.ackData]
    replies := s.replies ++ [⟨.ok, .empty⟩] }

/-- `DRAIN` is the loop of R123: an empty queue is done with status OK; else the head leaves `RXQ`,
is dispatched, a `MalformedPayload` is reported by one `FrameError` with the frame's identifier, and
the drain goes on with the rest. -/
def Obligations.DrainDispatchesTheQueueInOrder : Prop :=
  (∀ s : State, s.rxq = [] →
    exec .drain s = .next { s with replies := s.replies ++ [⟨.ok, .empty⟩] }) ∧
  (∀ (s : State) (f : Frame) (q : List Frame), s.rxq = f :: q →
    ∃ (t : State) (status : Status),
      exec (.dispatch f) { s with rxq := q } =
        .next { t with replies := s.replies ++ [⟨status, .empty⟩] } ∧
      t.replies = s.replies ∧ (status = .ok ∨ status = .malformedPayload) ∧
      exec .drain s = exec .drain (if status = .malformedPayload
        then { t with out := t.out ++ [.frameError .malformedPayload f.id] } else t))

/-- `DRAIN` always completes, with `RXQ` empty and status OK (R63, R123, R125). -/
def Obligations.DrainEmptiesTheQueue : Prop :=
  ∀ s : State, ∃ t, exec .drain s = .next t ∧ t.rxq = [] ∧
    t.replies = s.replies ++ [⟨.ok, .empty⟩] ∧ t.moves = s.moves

/-- Draining a queue in two parts has the effect of draining it at once (R125). -/
def Obligations.DrainSplits : Prop :=
  ∀ (s t u : State) (q r : List Frame), s.rxq = q ++ r →
    exec .drain { s with rxq := q } = .next t → exec .drain { t with rxq := r } = .next u →
    exec .drain s = .next { u with replies := s.replies ++ [⟨.ok, .empty⟩] }

/-- `FEED f` and `DISPATCH f` have the same effect on the registers when `RXQ` is empty before; `OUT`
differs only by the `FrameError` of a malformed frame (R92, R229). -/
def Obligations.FeedActsAsDispatch : Prop :=
  ∀ (s u v w : State) (raw : RawFrame) (f : Frame) (rest : List HostMove),
    s.rxq = [] → s.moves = feedMoves raw ++ rest → raw.frame = .ok f →
    step s = .next u → step u = .next v → exec (.dispatch f) s = .next w →
    v.SameRegisters w ∧ v.rxq = [] ∧ v.moves = rest ∧
    v.out = w.out ++ (if f.data.length < minlen (select f.id)
      then [.frameError .malformedPayload f.id] else [])

/-! ## The fault tracker -/

/-- The bitmap update (R141): bit `i` below 7 of the new bitmap is the old bit or "lane `i` is
non-zero", bit 7 is kept, the mask is `prev ^ (work | prev)`, and a `NewFault` is emitted exactly when
the mask is not 0. Shorter frames are malformed. That `NF` is a register is the spec's decision D10
(log 12). -/
def Obligations.BitmapUpdateLatchesAndDetects : Prop :=
  ∀ (b : BitmapSub) (f : Frame) (s : State),
    (f.data.length < 8 → exec (bitmapInstr b f) s =
      .next { s with replies := s.replies ++ [⟨.malformedPayload, .empty⟩] }) ∧
    (8 ≤ f.data.length → ∃ work mask : Byte,
      (∀ i, i < 7 → work.getLsbD i = ((s.fb.get b).getLsbD i || f.data[i]? != some 0)) ∧
      work.getLsbD 7 = (s.fb.get b).getLsbD 7 ∧
      mask = s.fb.get b ^^^ (work ||| s.fb.get b) ∧
      exec (bitmapInstr b f) s = .next { s with
        fb := s.fb.set b work
        nf := s.nf.set b mask
        out := if mask = 0 then s.out else s.out ++ [.newFault b work mask]
        replies := s.replies ++ [⟨.ok, .empty⟩] })

/-- The edge detector (R145): whether "current" is the working copy or only the bits `ind` this
payload raises, the mask is the bits that went from 0 to 1, a subset of the new bitmap, and 0 exactly
when the bitmap did not change. -/
def Obligations.EdgeDetectorReadingsAgree : Prop :=
  ∀ prev ind : Byte, let work := prev ||| ind
    newFaultsMask prev work = work &&& ~~~prev ∧ newFaultsMask prev ind = work &&& ~~~prev ∧
    newFaultsMask prev work &&& ~~~work = 0 ∧ (newFaultsMask prev work = 0 ↔ work = prev)

/-- Re-applying the same payload raises no new fault and notifies nothing (R146). -/
def Obligations.RepeatedPayloadRaisesNothing : Prop :=
  ∀ (b : BitmapSub) (f g : Frame) (s t : State), 8 ≤ f.data.length → g.data = f.data →
    exec (bitmapInstr b f) s = .next t →
    exec (bitmapInstr b g) t = .next { t with
      nf := t.nf.set b 0
      replies := t.replies ++ [⟨.ok, .empty⟩] }

/-- Two bitmap updates of one subsystem leave the same bitmap in either order (R62, R146). -/
def Obligations.BitmapUpdatesCommute : Prop :=
  ∀ (b : BitmapSub) (f g : Frame) (s t t' u u' : State),
    exec (bitmapInstr b f) s = .next t → exec (bitmapInstr b g) t = .next t' →
    exec (bitmapInstr b g) s = .next u → exec (bitmapInstr b f) u = .next u' → t'.fb = u'.fb

/-- The DM1 update (R147): bits 4:0 of lane 4 overwrite the FMI of the subsystem, and `FmiChanged` is
emitted always. Shorter frames are malformed. -/
def Obligations.Dm1UpdateOverwritesAndNotifies : Prop :=
  ∀ (d : Dm1Sub) (f : Frame) (s : State),
    (f.data.length < 5 → exec (dm1Instr d f) s =
      .next { s with replies := s.replies ++ [⟨.malformedPayload, .empty⟩] }) ∧
    (5 ≤ f.data.length → ∃ lane : Byte, f.data[4]? = some lane ∧
      exec (dm1Instr d f) s = .next { s with
        fmi := s.fmi.set d (BitVec.ofNat 8 (lane.toNat % 32))
        out := s.out ++ [.fmiChanged d (BitVec.ofNat 8 (lane.toNat % 32))]
        replies := s.replies ++ [⟨.ok, .empty⟩] })

/-- `FT.RESET` of a bitmap subsystem restores the sentinel and changes nothing else (R152; that `NF`
and `OUT` are left alone is D24). -/
def Obligations.FtResetRestoresTheSentinel : Prop :=
  ∀ (b : BitmapSub) (s : State), exec (.ftReset (.bitmap b)) s = .next { s with
    fb := s.fb.set b 0x80
    replies := s.replies ++ [⟨.ok, .empty⟩] }

/-- `FT.RESET` of a DM1 subsystem changes nothing and returns OK, and no instruction changes an FMI
but one that handles a DM1 frame of that subsystem (R153). -/
def Obligations.FtResetLeavesTheFmiCodes : Prop :=
  (∀ (d : Dm1Sub) (s : State), exec (.ftReset (.dm1 d)) s =
    .next { s with replies := s.replies ++ [⟨.ok, .empty⟩] }) ∧
  (∀ (i : Instr) (s t : State) (d : Dm1Sub), exec i s = .next t →
    dm1Handler d ∉ handlersRun s i → t.fmi.get d = s.fmi.get d)

/-- After `FT.RESET` an all-zero payload leaves the bitmap at the sentinel with no new fault, and a
payload raises every indicator as new again (R154). -/
def Obligations.FtResetRearmsTheDetector : Prop :=
  ∀ (b : BitmapSub) (f : Frame) (s t u : State), 8 ≤ f.data.length →
    exec (.ftReset (.bitmap b)) s = .next t → exec (bitmapInstr b f) t = .next u →
    (∀ i, i < 7 → (u.nf.get b).getLsbD i = (f.data[i]? != some 0)) ∧
    ((∀ i, i < 7 → f.data[i]? = some 0) →
      u.fb.get b = 0x80 ∧ u.nf.get b = 0 ∧ u.out = s.out)

/-! ## The signal decoder -/

/-- `SIG.LIN` (R173): its identifiers, and the big-endian `i16` of lanes 0 and 1. The register with
its valid mark is the spec's decision D11, the minimum of 2 lanes is D16 (both log 12). -/
def Obligations.LinearDisplacementIsLanesZeroAndOne : Prop :=
  ∀ (f : Frame) (s : State),
    (select f.id = .sigLin ↔ f.id &&& 0x00FFFF00 = 0x00F03200) ∧
    (f.data.length < 2 → exec (.sigLin f) s =
      .next { s with replies := s.replies ++ [⟨.malformedPayload, .empty⟩] }) ∧
    (2 ≤ f.data.length → ∃ (msb lsb : Byte) (n : Half),
      f.data[0]? = some msb ∧ f.data[1]? = some lsb ∧
      n.toInt = (let w : Int := msb.toNat * 256 + lsb.toNat; if w < 32768 then w else w - 65536) ∧
      exec (.sigLin f) s = .next { s with
        svLin := ⟨n, true⟩
        out := s.out ++ [.signalChanged (.linearDisplacement n)]
        replies := s.replies ++ [⟨.ok, .empty⟩] })

/-- `SIG.ETEMP` (R175): its identifiers, and lane 0 minus 40, exact, -40 to 215.
That the byte is unsigned is the spec's decision D8, the register with its valid mark D11, the
minimum of 1 lane D16 (log 12). -/
def Obligations.EngineTemperatureIsLaneZeroMinusForty : Prop :=
  ∀ (f : Frame) (s : State),
    (select f.id = .sigEtemp ↔ f.id &&& 0x00FFFF00 = 0x00FEEE00) ∧
    (f.data.length < 1 → exec (.sigEtemp f) s =
      .next { s with replies := s.replies ++ [⟨.malformedPayload, .empty⟩] }) ∧
    (1 ≤ f.data.length → ∃ (byte : Byte) (n : Half),
      f.data[0]? = some byte ∧ n.toInt = (byte.toNat : Int) - 40 ∧
      exec (.sigEtemp f) s = .next { s with
        svEtemp := ⟨n, true⟩
        out := s.out ++ [.signalChanged (.engineTemperature n)]
        replies := s.replies ++ [⟨.ok, .empty⟩] })

/-- `SIG.POS` (R177): its identifiers, X from lanes 0 and 1, Y from lanes 2 and 3, both or none. One
event for both is the spec's decision D25, the registers with their valid mark D11, the minimum of 4
lanes D16 (log 12). -/
def Obligations.VehiclePositionIsLanesZeroToThree : Prop :=
  ∀ (f : Frame) (s : State),
    (select f.id = .sigPos ↔ f.id &&& 0x00FFFF00 = 0x00FEE900) ∧
    (f.data.length < 4 → exec (.sigPos f) s =
      .next { s with replies := s.replies ++ [⟨.malformedPayload, .empty⟩] }) ∧
    (4 ≤ f.data.length → ∃ (xm xl ym yl : Byte) (x y : Half),
      f.data[0]? = some xm ∧ f.data[1]? = some xl ∧ f.data[2]? = some ym ∧ f.data[3]? = some yl ∧
      x.toInt = (let w : Int := xm.toNat * 256 + xl.toNat; if w < 32768 then w else w - 65536) ∧
      y.toInt = (let w : Int := ym.toNat * 256 + yl.toNat; if w < 32768 then w else w - 65536) ∧
      exec (.sigPos f) s = .next { s with
        svPos := ⟨x, y, true⟩
        out := s.out ++ [.signalChanged (.vehiclePosition x y)]
        replies := s.replies ++ [⟨.ok, .empty⟩] })

/-- `SIG.ORI` (R179): its identifiers, and the big-endian `i16` of lanes 1 and 2; lane 0 is not read.
The register with its valid mark is the spec's decision D11, the minimum of 3 lanes is D16 (both
log 12). -/
def Obligations.VehicleOrientationIsLanesOneAndTwo : Prop :=
  ∀ (f : Frame) (s : State),
    (select f.id = .sigOri ↔ f.id &&& 0x00FFFF00 = 0x00FFFF00) ∧
    (f.data.length < 3 → exec (.sigOri f) s =
      .next { s with replies := s.replies ++ [⟨.malformedPayload, .empty⟩] }) ∧
    (3 ≤ f.data.length → ∃ (msb lsb : Byte) (n : Half),
      f.data[1]? = some msb ∧ f.data[2]? = some lsb ∧
      n.toInt = (let w : Int := msb.toNat * 256 + lsb.toNat; if w < 32768 then w else w - 65536) ∧
      exec (.sigOri f) s = .next { s with
        svOri := ⟨n, true⟩
        out := s.out ++ [.signalChanged (.vehicleOrientation n)]
        replies := s.replies ++ [⟨.ok, .empty⟩] })

/-- The payload reads (R52, R53): a read is defined exactly inside the valid lanes, and a two-byte
read is the joined value of its lanes, the lower lane the most significant. -/
def Obligations.PayloadReadsAreBoundedAndBigEndian : Prop :=
  ∀ (p : List Byte) (i : Nat),
    ((memRead1 p i).isSome = true ↔ i + 1 ≤ p.length) ∧
    ((memRead2 p i).isSome = true ↔ i + 2 ≤ p.length) ∧
    (∀ w : Half, memRead2 p i = some w → ∃ msb lsb : Byte,
      memRead1 p i = some msb ∧ memRead1 p (i + 1) = some lsb ∧
      w.toNat = msb.toNat * 256 + lsb.toNat)

/-- The physical value of a numerator (R171, R172): the exact rational `n / div`, in the ranges of the
table (the numerator and divisor form is D9). -/
def Obligations.PhysicalValuesAreExact : Prop :=
  ∀ n : Half,
    SignalKind.linearDisplacement.physical n * 10 = (n.toInt : Rat) ∧
    SignalKind.vehicleOrientation.physical n * 128 = (n.toInt : Rat) ∧
    SignalKind.engineTemperature.physical n = (n.toInt : Rat) ∧
    SignalKind.vehiclePosition.physical n = (n.toInt : Rat) ∧
    -32768 ≤ SignalKind.linearDisplacement.physical n * 10 ∧
    SignalKind.linearDisplacement.physical n * 10 ≤ 32767 ∧
    -256 ≤ SignalKind.vehicleOrientation.physical n ∧
    SignalKind.vehicleOrientation.physical n * 128 ≤ 32767

/-! ## The command encoder and the accessor -/

/-- The three frames of `BUILD.RESET` (R192), returned and appended to `OUT`; nothing else changes. -/
def Obligations.BuildResetSendsItsThreeFrames : Prop :=
  ∀ (sel : Byte) (id : Word) (s : State),
    (sel = 1 ∧ id = 0x18FECA48 ∨ sel = 2 ∧ id = 0x18FECA63 ∨ sel = 3 ∧ id = 0x18FECA50) →
    exec (.buildReset sel) s = .next { s with
      out := s.out ++ [.frameOut id ⟨0, 0, 0, 0, 0, 0, 0, 0⟩]
      replies := s.replies ++ [⟨.ok, .frame id ⟨0, 0, 0, 0, 0, 0, 0, 0⟩⟩] }

/-- The two frames of `BUILD.SETPOINT` (R196), for every setpoint byte, returned and appended to
`OUT`; nothing else changes. -/
def Obligations.BuildSetpointSendsItsTwoFrames : Prop :=
  ∀ (v : Byte) (s : State),
    exec (.buildSetpoint 1 v) s = .next { s with
      out := s.out ++ [.frameOut 0x18FFF848 ⟨0xFF, 0xFF, 0xFF, v, 0xFF, 0xFF, 0xFF, 0xFF⟩]
      replies := s.replies ++
        [⟨.ok, .frame 0x18FFF848 ⟨0xFF, 0xFF, 0xFF, v, 0xFF, 0xFF, 0xFF, 0xFF⟩⟩] } ∧
    exec (.buildSetpoint 2 v) s = .next { s with
      out := s.out ++ [.frameOut 0x18F03750 ⟨v, 0xFF, 0xFF, 0xFF, 0xFF, 0xFF, 0xFF, 0xFF⟩]
      replies := s.replies ++
        [⟨.ok, .frame 0x18F03750 ⟨v, 0xFF, 0xFF, 0xFF, 0xFF, 0xFF, 0xFF, 0xFF⟩⟩] }

/-- A selector the source does not define is `InvalidField` and builds nothing (R193, R198: the
spec's decision D21). -/
def Obligations.UndefinedSelectorsAreInvalidField : Prop :=
  ∀ (sel v : Byte) (s : State),
    (sel = 0 ∨ 4 ≤ sel.toNat → exec (.buildReset sel) s =
      .next { s with replies := s.replies ++ [⟨.invalidField, .empty⟩] }) ∧
    (sel = 0 ∨ 3 ≤ sel.toNat → exec (.buildSetpoint sel v) s =
      .next { s with replies := s.replies ++ [⟨.invalidField, .empty⟩] })

/-- An echoed reset frame (R194, R262): the frame a `BUILD.RESET` sent, dispatched in any state, writes
FMI 0 to the subsystem its selector names and notifies. -/
def Obligations.EchoedResetFrameClearsItsFmi : Prop :=
  ∀ (sel : Byte) (d : Dm1Sub) (s t u : State) (id : Word) (data : Lanes),
    (sel = 1 ∧ d = .linear ∨ sel = 2 ∧ d = .position ∨ sel = 3 ∧ d = .temperature) →
    exec (.buildReset sel) s = .next t → t.out = s.out ++ [.frameOut id data] →
    exec (.dispatch ⟨id, data.toList⟩) u = .next { u with
      fmi := u.fmi.set d 0
      out := u.out ++ [.fmiChanged d 0]
      replies := u.replies ++ [⟨.ok, .empty⟩] }

/-- `ADJUST` (R200): the sum, then 251 becomes 0 and 255 becomes 250, no other value is remapped; the
block's state is untouched. (That the sum is modulo 256 is D23.) -/
def Obligations.AdjustRemapsOnlyTwoSums : Prop :=
  ∀ (current delta : Byte) (s : State), ∃ v : Byte,
    v.toNat = (let n := (current.toNat + delta.toNat) % 256
      if n = 251 then 0 else if n = 255 then 250 else n) ∧
    exec (.adjust current delta) s =
      .next { s with replies := s.replies ++ [⟨.ok, .byte v⟩] }

/-- `READ` (R205, R206): the register's value, or `NoValue` for a signal register whose mark is false;
nothing else changes. -/
def Obligations.ReadReturnsTheRegister : Prop :=
  ∀ (s : State),
    let answers (reg : RegName) (r : Reply) : Prop :=
      exec (.read reg) s = .next { s with replies := s.replies ++ [r] }
    let signal (reg : RegName) (valid : Bool) (n : Half) : Prop :=
      answers reg (if valid then ⟨.ok, .half n⟩ else ⟨.noValue, .empty⟩)
    (∀ b, answers (.fb b) ⟨.ok, .byte (s.fb.get b)⟩) ∧
    (∀ b, answers (.nf b) ⟨.ok, .byte (s.nf.get b)⟩) ∧
    (∀ d, answers (.fmi d) ⟨.ok, .byte (s.fmi.get d)⟩) ∧
    signal .svLin s.svLin.valid s.svLin.num ∧ signal .svEtemp s.svEtemp.valid s.svEtemp.num ∧
    signal .svPosX s.svPos.valid s.svPos.x ∧ signal .svPosY s.svPos.valid s.svPos.y ∧
    signal .svOri s.svOri.valid s.svOri.num
end

