-- ==== Sys2Proof/Laws/Encoding.lean ====
section
/-! SUPPORT. The identifier fields, the mask tests and the frame wires as arithmetic on numbers. -/

namespace Sys2Proof

theorem extractLsb'_toNat_eq (id : Word) (lo width : Nat) :
    (id.extractLsb' lo width).toNat = id.toNat / 2 ^ lo % 2 ^ width := by
  rw [BitVec.extractLsb'_toNat, Nat.shiftRight_eq_div_pow]

@[simp] theorem idPri_toNat (id : Word) : (idPri id).toNat = id.toNat / 2 ^ 26 % 2 ^ 3 :=
  extractLsb'_toNat_eq id 26 3
@[simp] theorem idEdp_toNat (id : Word) : (idEdp id).toNat = id.toNat / 2 ^ 25 % 2 ^ 1 :=
  extractLsb'_toNat_eq id 25 1
@[simp] theorem idDp_toNat (id : Word) : (idDp id).toNat = id.toNat / 2 ^ 24 % 2 ^ 1 :=
  extractLsb'_toNat_eq id 24 1
@[simp] theorem idPf_toNat (id : Word) : (idPf id).toNat = id.toNat / 2 ^ 16 % 2 ^ 8 :=
  extractLsb'_toNat_eq id 16 8
@[simp] theorem idPs_toNat (id : Word) : (idPs id).toNat = id.toNat / 2 ^ 8 % 2 ^ 8 :=
  extractLsb'_toNat_eq id 8 8
@[simp] theorem idSa_toNat (id : Word) : (idSa id).toNat = id.toNat / 2 ^ 0 % 2 ^ 8 :=
  extractLsb'_toNat_eq id 0 8
@[simp] theorem idPgn_toNat (id : Word) : (idPgn id).toNat = id.toNat / 2 ^ 8 % 2 ^ 16 :=
  extractLsb'_toNat_eq id 8 16

/-- A mask of `width` ones at bit `lo` keeps exactly that field. -/
theorem and_fieldMask (n lo width : Nat) :
    n &&& ((2 ^ width - 1) * 2 ^ lo) = n / 2 ^ lo % 2 ^ width * 2 ^ lo := by
  apply Nat.eq_of_testBit_eq
  intro i
  rw [Nat.testBit_and, Nat.testBit_mul_two_pow, Nat.testBit_mul_two_pow,
    Nat.testBit_two_pow_sub_one, Nat.testBit_mod_two_pow, Nat.testBit_div_two_pow]
  by_cases h : lo ≤ i
  · simp [h, Bool.and_comm]
  · simp [h]

/-- The PGN rows of R84: `id & 0x00FFFF00`. -/
theorem and_pgnMask_toNat (id : Word) :
    (id &&& 0x00FFFF00).toNat = id.toNat / 2 ^ 8 % 2 ^ 16 * 2 ^ 8 :=
  (BitVec.toNat_and _ _).trans (and_fieldMask id.toNat 8 16)

/-- The DM1 rows of R84: `id & 0x00FFFFFF`. -/
theorem and_dm1Mask_toNat (id : Word) : (id &&& 0x00FFFFFF).toNat = id.toNat % 2 ^ 24 := by
  have h := (BitVec.toNat_and id 0x00FFFFFF).trans (and_fieldMask id.toNat 0 24)
  simpa using h

/-- The mask and match columns of R84, written out as the spec prints them. -/
theorem frameTable_eq : frameTable =
    [ ⟨.bmpTach, 0x00FFFF00, 0x00BEB000⟩, ⟨.bmpFuel, 0x00FFFF00, 0x00BEBA00⟩,
      ⟨.bmpTherm, 0x00FFFF00, 0x00BEEF00⟩, ⟨.dm1Lin, 0x00FFFFFF, 0x00FECA48⟩,
      ⟨.dm1Temp, 0x00FFFFFF, 0x00FECA50⟩, ⟨.dm1Pos, 0x00FFFFFF, 0x00FECA63⟩,
      ⟨.sigLin, 0x00FFFF00, 0x00F03200⟩, ⟨.sigEtemp, 0x00FFFF00, 0x00FEEE00⟩,
      ⟨.sigPos, 0x00FFFF00, 0x00FEE900⟩, ⟨.sigOri, 0x00FFFF00, 0x00FFFF00⟩,
      ⟨.testAck, 0x00FFFF00, 0x00FFBB00⟩ ] := by decide

theorem FrameRow.hits_iff (r : FrameRow) (id : Word) :
    r.hits id = true ↔ (id &&& r.mask).toNat = r.pat.toNat := by
  rw [FrameRow.hits, beq_iff_eq, BitVec.toNat_inj]

theorem RawFrame.frame_ok {raw : RawFrame} {f : Frame} (h : raw.frame = .ok f) :
    raw.len.toNat ≤ 8 ∧ f = ⟨raw.id, raw.lanes.toList.take raw.len.toNat⟩ := by
  unfold RawFrame.frame at h
  split at h
  · exact ⟨‹_›, (Except.ok.inj h).symm⟩
  · cases h

theorem RawFrame.frame_of_le {raw : RawFrame} (h : raw.len.toNat ≤ 8) :
    raw.frame = .ok ⟨raw.id, raw.lanes.toList.take raw.len.toNat⟩ := by simp [RawFrame.frame, h]

theorem RawFrame.frame_of_gt {raw : RawFrame} (h : 8 < raw.len.toNat) :
    raw.frame = .error .reservedLength := by simp [RawFrame.frame, Nat.not_le.mpr h]

/-- The wires carry a payload of at most eight bytes unchanged. -/
theorem wireLanes_take (data : List Byte) (h : data.length ≤ 8) :
    (wireLanes data).toList.take data.length = data := by
  apply List.ext_getElem?
  intro i
  rw [List.getElem?_take]
  split
  · rename_i hi
    have h8 : i < 8 := by omega
    simp only [wireLanes, Lanes.toList, wireLane]
    interval_cases i <;> simp [hi]
  · rename_i hi
    simpa using hi

theorem Frame.raw_frame (f : Frame) (h : f.data.length ≤ 8) : f.raw.frame = .ok f := by
  have hl : f.raw.len.toNat = f.data.length := by
    simp only [Frame.raw, BitVec.toNat_ofNat]
    omega
  rw [RawFrame.frame_of_le (by omega), hl]
  simp only [Frame.raw, wireLanes_take f.data h]

theorem Frame.wf_iff (f : Frame) : f.wf = true ↔ f.data.length ≤ 8 := by simp [Frame.wf]

end Sys2Proof
end

