-- ==== Sys2Proof/Laws/Payload.lean ====
section
/-! SUPPORT. What a payload read and the fault-bit computations give (R52, R53, R141, R145). -/

namespace Sys2Proof.Machine

theorem memRead1_eq_some {p : List Byte} {i : Nat} (h : i < p.length) :
    memRead1 p i = some p[i] := by simp [memRead1, h]

theorem memRead1_isSome {p : List Byte} {i : Nat} : (memRead1 p i).isSome ↔ i < p.length := by
  simp [memRead1]

theorem memRead2_eq_some {p : List Byte} {i : Nat} (h : i + 1 < p.length) :
    memRead2 p i = some (p[i] ++ p[i + 1]) := by
  simp [memRead2, h, Nat.lt_of_succ_lt h]

theorem memRead2_of_lanes {p : List Byte} {i : Nat} {hi lo : Byte} (hh : p[i]? = some hi)
    (hl : p[i + 1]? = some lo) : memRead2 p i = some (hi ++ lo) := by simp [memRead2, hh, hl]

theorem memRead2_isSome {p : List Byte} {i : Nat} : (memRead2 p i).isSome ↔ i + 1 < p.length := by
  constructor
  · intro h
    by_contra hn
    have : p[i + 1]? = none := by simp; omega
    simp only [memRead2, this] at h
    split at h <;> simp_all
  · intro h
    simp [memRead2_eq_some h]

/-- The joined halfword as an unsigned number (R53, R183). -/
theorem toNat_join (hi lo : Byte) : (hi ++ lo : Half).toNat = hi.toNat * 256 + lo.toNat := by
  have hlo : lo.toNat < 2 ^ 8 := lo.isLt
  rw [BitVec.toNat_append, Nat.shiftLeft_eq, Nat.mul_comm, ← Nat.two_pow_add_eq_or_of_lt hlo,
    Nat.mul_comm]

/-- `int16` of the joined halfword (R12). -/
theorem toInt_join (hi lo : Byte) :
    (hi ++ lo : Half).toInt =
      (let w : Int := hi.toNat * 256 + lo.toNat; if w < 32768 then w else w - 65536) := by
  have h := toNat_join hi lo
  have hhi : hi.toNat < 256 := hi.isLt
  have hlo : lo.toNat < 256 := lo.isLt
  rw [BitVec.toInt_eq_toNat_cond, h]
  simp only [Nat.reducePow, Nat.reduceAdd]
  split <;> split <;> omega

theorem temperatureNumerator_toInt (b : Byte) :
    (temperatureNumerator b).toInt = (b.toNat : Int) - 40 := by
  have h : b.toNat < 256 := b.isLt
  rw [temperatureNumerator, Config.temperatureOffset, BitVec.toInt_ofInt, Int.bmod_def]
  split <;> omega

theorem fmiOperand_eq_some {p : List Byte} (h : 4 < p.length) :
    fmiOperand p = some (BitVec.ofNat 8 (p[4].toNat % 32)) := by
  have hm : ∀ b : Byte, b &&& Config.fmiMask = BitVec.ofNat 8 (b.toNat % 32) := by decide
  rw [fmiOperand, memRead1_eq_some h, Option.map_some, hm]

/-- One indicator sets its own bit and no other. -/
theorem getLsbD_raise (work : Byte) (i j : Nat) (c : Bool) :
    (if c = true then work ||| (1#8 <<< i) else work).getLsbD j =
      (work.getLsbD j || (c && decide (j = i) && decide (j < 8))) := by
  cases c
  · simp
  · have h1 : ∀ k : Nat, (1#8).getLsbD k = decide (k = 0) := by
      intro k
      rw [BitVec.getLsbD_one]
      simp
    by_cases hj : j < 8
    · by_cases hij : j = i
      · subst hij
        simp [hj]
      · simp only [↓reduceIte, BitVec.getLsbD_or, BitVec.getLsbD_shiftLeft, h1, hij, decide_false,
          Bool.and_false, Bool.false_and, Bool.or_false]
        by_cases hlt : j < i
        · simp [hlt]
        · simp [show ¬ j - i = 0 by omega]
    · simp [hj]

/-- The loop of R141 over lanes inside the payload: it completes, and bit `j` of the working copy is
the old bit or "lane `j` was visited and is non-zero". -/
theorem raiseIndicators_spec (p : List Byte) (is : List Nat) (work : Byte)
    (h : ∀ i ∈ is, i < p.length) :
    ∃ w, raiseIndicators p is work = some w ∧
      ∀ j, j < 8 → w.getLsbD j = (work.getLsbD j || (decide (j ∈ is) && p[j]? != some 0)) := by
  induction is generalizing work with
  | nil => exact ⟨work, rfl, by simp⟩
  | cons i is ih =>
    have hi : i < p.length := h i (by simp)
    obtain ⟨w, hw, hbits⟩ := ih (if decide (p[i] ≠ 0) = true then work ||| (1#8 <<< i) else work)
      (fun k hk => h k (by simp [hk]))
    refine ⟨w, ?_, ?_⟩
    · rw [raiseIndicators, memRead1_eq_some hi]
      simpa using hw
    · intro j hj
      rw [hbits j hj, getLsbD_raise]
      by_cases hji : j = i
      · subst hji
        rw [List.getElem?_eq_getElem hi]
        by_cases h0 : p[j] = 0
        · simp [h0]
        · have hne : (some p[j] != some 0) = true := by simpa using h0
          simp only [hne, h0, hj, ne_eq, not_false_eq_true, decide_true, Bool.and_true,
            List.mem_cons, true_or]
          cases work.getLsbD j <;> rfl
      · simp [hji, hj]

/-- The indicator lanes are lanes 0 to 6 (R77). -/
theorem mem_faultLanes {j : Nat} : j ∈ faultLanes ↔ j < 7 := List.mem_range

/-- A payload of at least seven lanes updates any bitmap (R141). -/
theorem raiseIndicators_faultLanes (p : List Byte) (prev : Byte) (h : 7 ≤ p.length) :
    ∃ w, raiseIndicators p faultLanes prev = some w ∧
      (∀ j, j < 7 → w.getLsbD j = (prev.getLsbD j || p[j]? != some 0)) ∧
      w.getLsbD 7 = prev.getLsbD 7 := by
  obtain ⟨w, hw, hb⟩ := raiseIndicators_spec p faultLanes prev
    fun i hi => Nat.lt_of_lt_of_le (mem_faultLanes.mp hi) h
  refine ⟨w, hw, fun j hj => ?_, ?_⟩
  · simpa [mem_faultLanes, hj] using hb j (by omega)
  · simpa [mem_faultLanes] using hb 7 (by omega)

theorem newFaultsMask_eq (prev work : Byte) : newFaultsMask prev work = work &&& ~~~prev := by
  ext i hi
  simp only [newFaultsMask, BitVec.getElem_xor, BitVec.getElem_or, BitVec.getElem_and,
    BitVec.getElem_not]
  cases prev[i] <;> cases work[i] <;> rfl

end Sys2Proof.Machine
end

