-- ==== Sys2Proof/Laws/State.lean ====
section
/-! SUPPORT. What each update of the state does to each field, so that no proof unfolds a record
update; and the read-after-write laws of the two register banks. -/

namespace Sys2Proof

/-! The counts and widths of R7 are those of the types. -/

theorem BitmapSub.mem_all (b : BitmapSub) : b ∈ BitmapSub.all := by cases b <;> decide
theorem BitmapSub.length_all : BitmapSub.all.length = Config.bitmapSubsystems := rfl
theorem Dm1Sub.mem_all (d : Dm1Sub) : d ∈ Dm1Sub.all := by cases d <;> decide
theorem Dm1Sub.length_all : Dm1Sub.all.length = Config.fmiSubsystems := rfl

/-- The sentinel is the reserved bit alone; the indicators fill the other bits (R7, R24). -/
theorem sentinel_getLsbD (i : Nat) :
    Config.sentinel.getLsbD i = decide (i = Config.bitmapReservedBit) := by
  by_cases h : i < 8
  · have key : ∀ k : Fin 8, Config.sentinel.getLsbD k = decide (k.val = 7) := by decide
    exact key ⟨i, h⟩
  · have hne : ¬ i = 7 := by omega
    simp [BitVec.getLsbD_of_ge _ _ (Nat.not_lt.mp h), hne]

theorem fmiMask_eq : Config.fmiMask = 0x1F := rfl

end Sys2Proof

namespace Sys2Proof.Machine

@[simp] theorem BitmapBank.get_set_same (b : BitmapBank) (s : BitmapSub) (v : Byte) :
    (b.set s v).get s = v := by cases s <;> rfl

theorem BitmapBank.get_set (b : BitmapBank) (s r : BitmapSub) (v : Byte) :
    (b.set s v).get r = if r = s then v else b.get r := by cases s <;> cases r <;> rfl

@[simp] theorem BitmapBank.set_get_same (b : BitmapBank) (s : BitmapSub) : b.set s (b.get s) = b := by
  cases s <;> rfl

@[simp] theorem BitmapBank.set_set_same (b : BitmapBank) (s : BitmapSub) (v w : Byte) :
    (b.set s v).set s w = b.set s w := by cases s <;> rfl

theorem BitmapBank.ext_get {b c : BitmapBank} (h : ∀ s, b.get s = c.get s) : b = c := by
  cases b; cases c
  have h0 := h .tachometer
  have h1 := h .fuelGauge
  have h2 := h .thermometer
  simp only [BitmapBank.get] at h0 h1 h2
  rw [h0, h1, h2]

@[simp] theorem FmiBank.get_set_same (b : FmiBank) (d : Dm1Sub) (v : Byte) :
    (b.set d v).get d = v := by cases d <;> rfl

theorem FmiBank.get_set (b : FmiBank) (d r : Dm1Sub) (v : Byte) :
    (b.set d v).get r = if r = d then v else b.get r := by cases d <;> cases r <;> rfl

@[simp] theorem State.setFb_fb (s : State) (b : BitmapSub) (v : Byte) : (s.setFb b v).fb = s.fb.set b v := rfl
@[simp] theorem State.setFb_nf (s : State) (b : BitmapSub) (v : Byte) : (s.setFb b v).nf = s.nf := rfl
@[simp] theorem State.setFb_fmi (s : State) (b : BitmapSub) (v : Byte) : (s.setFb b v).fmi = s.fmi := rfl
@[simp] theorem State.setFb_svLin (s : State) (b : BitmapSub) (v : Byte) : (s.setFb b v).svLin = s.svLin := rfl
@[simp] theorem State.setFb_svEtemp (s : State) (b : BitmapSub) (v : Byte) : (s.setFb b v).svEtemp = s.svEtemp := rfl
@[simp] theorem State.setFb_svPos (s : State) (b : BitmapSub) (v : Byte) : (s.setFb b v).svPos = s.svPos := rfl
@[simp] theorem State.setFb_svOri (s : State) (b : BitmapSub) (v : Byte) : (s.setFb b v).svOri = s.svOri := rfl
@[simp] theorem State.setFb_rxq (s : State) (b : BitmapSub) (v : Byte) : (s.setFb b v).rxq = s.rxq := rfl
@[simp] theorem State.setFb_out (s : State) (b : BitmapSub) (v : Byte) : (s.setFb b v).out = s.out := rfl
@[simp] theorem State.setFb_replies (s : State) (b : BitmapSub) (v : Byte) : (s.setFb b v).replies = s.replies := rfl
@[simp] theorem State.setFb_moves (s : State) (b : BitmapSub) (v : Byte) : (s.setFb b v).moves = s.moves := rfl

@[simp] theorem State.setNf_fb (s : State) (b : BitmapSub) (v : Byte) : (s.setNf b v).fb = s.fb := rfl
@[simp] theorem State.setNf_nf (s : State) (b : BitmapSub) (v : Byte) : (s.setNf b v).nf = s.nf.set b v := rfl
@[simp] theorem State.setNf_fmi (s : State) (b : BitmapSub) (v : Byte) : (s.setNf b v).fmi = s.fmi := rfl
@[simp] theorem State.setNf_svLin (s : State) (b : BitmapSub) (v : Byte) : (s.setNf b v).svLin = s.svLin := rfl
@[simp] theorem State.setNf_svEtemp (s : State) (b : BitmapSub) (v : Byte) : (s.setNf b v).svEtemp = s.svEtemp := rfl
@[simp] theorem State.setNf_svPos (s : State) (b : BitmapSub) (v : Byte) : (s.setNf b v).svPos = s.svPos := rfl
@[simp] theorem State.setNf_svOri (s : State) (b : BitmapSub) (v : Byte) : (s.setNf b v).svOri = s.svOri := rfl
@[simp] theorem State.setNf_rxq (s : State) (b : BitmapSub) (v : Byte) : (s.setNf b v).rxq = s.rxq := rfl
@[simp] theorem State.setNf_out (s : State) (b : BitmapSub) (v : Byte) : (s.setNf b v).out = s.out := rfl
@[simp] theorem State.setNf_replies (s : State) (b : BitmapSub) (v : Byte) : (s.setNf b v).replies = s.replies := rfl
@[simp] theorem State.setNf_moves (s : State) (b : BitmapSub) (v : Byte) : (s.setNf b v).moves = s.moves := rfl

@[simp] theorem State.setFmi_fb (s : State) (d : Dm1Sub) (v : Byte) : (s.setFmi d v).fb = s.fb := rfl
@[simp] theorem State.setFmi_nf (s : State) (d : Dm1Sub) (v : Byte) : (s.setFmi d v).nf = s.nf := rfl
@[simp] theorem State.setFmi_fmi (s : State) (d : Dm1Sub) (v : Byte) : (s.setFmi d v).fmi = s.fmi.set d v := rfl
@[simp] theorem State.setFmi_svLin (s : State) (d : Dm1Sub) (v : Byte) : (s.setFmi d v).svLin = s.svLin := rfl
@[simp] theorem State.setFmi_svEtemp (s : State) (d : Dm1Sub) (v : Byte) : (s.setFmi d v).svEtemp = s.svEtemp := rfl
@[simp] theorem State.setFmi_svPos (s : State) (d : Dm1Sub) (v : Byte) : (s.setFmi d v).svPos = s.svPos := rfl
@[simp] theorem State.setFmi_svOri (s : State) (d : Dm1Sub) (v : Byte) : (s.setFmi d v).svOri = s.svOri := rfl
@[simp] theorem State.setFmi_rxq (s : State) (d : Dm1Sub) (v : Byte) : (s.setFmi d v).rxq = s.rxq := rfl
@[simp] theorem State.setFmi_out (s : State) (d : Dm1Sub) (v : Byte) : (s.setFmi d v).out = s.out := rfl
@[simp] theorem State.setFmi_replies (s : State) (d : Dm1Sub) (v : Byte) : (s.setFmi d v).replies = s.replies := rfl
@[simp] theorem State.setFmi_moves (s : State) (d : Dm1Sub) (v : Byte) : (s.setFmi d v).moves = s.moves := rfl

@[simp] theorem State.setSvLin_fb (s : State) (n : Half) : (s.setSvLin n).fb = s.fb := rfl
@[simp] theorem State.setSvLin_nf (s : State) (n : Half) : (s.setSvLin n).nf = s.nf := rfl
@[simp] theorem State.setSvLin_fmi (s : State) (n : Half) : (s.setSvLin n).fmi = s.fmi := rfl
@[simp] theorem State.setSvLin_svLin (s : State) (n : Half) : (s.setSvLin n).svLin = ⟨n, true⟩ := rfl
@[simp] theorem State.setSvLin_svEtemp (s : State) (n : Half) : (s.setSvLin n).svEtemp = s.svEtemp := rfl
@[simp] theorem State.setSvLin_svPos (s : State) (n : Half) : (s.setSvLin n).svPos = s.svPos := rfl
@[simp] theorem State.setSvLin_svOri (s : State) (n : Half) : (s.setSvLin n).svOri = s.svOri := rfl
@[simp] theorem State.setSvLin_rxq (s : State) (n : Half) : (s.setSvLin n).rxq = s.rxq := rfl
@[simp] theorem State.setSvLin_out (s : State) (n : Half) : (s.setSvLin n).out = s.out := rfl
@[simp] theorem State.setSvLin_replies (s : State) (n : Half) : (s.setSvLin n).replies = s.replies := rfl
@[simp] theorem State.setSvLin_moves (s : State) (n : Half) : (s.setSvLin n).moves = s.moves := rfl

@[simp] theorem State.setSvEtemp_fb (s : State) (n : Half) : (s.setSvEtemp n).fb = s.fb := rfl
@[simp] theorem State.setSvEtemp_nf (s : State) (n : Half) : (s.setSvEtemp n).nf = s.nf := rfl
@[simp] theorem State.setSvEtemp_fmi (s : State) (n : Half) : (s.setSvEtemp n).fmi = s.fmi := rfl
@[simp] theorem State.setSvEtemp_svLin (s : State) (n : Half) : (s.setSvEtemp n).svLin = s.svLin := rfl
@[simp] theorem State.setSvEtemp_svEtemp (s : State) (n : Half) : (s.setSvEtemp n).svEtemp = ⟨n, true⟩ := rfl
@[simp] theorem State.setSvEtemp_svPos (s : State) (n : Half) : (s.setSvEtemp n).svPos = s.svPos := rfl
@[simp] theorem State.setSvEtemp_svOri (s : State) (n : Half) : (s.setSvEtemp n).svOri = s.svOri := rfl
@[simp] theorem State.setSvEtemp_rxq (s : State) (n : Half) : (s.setSvEtemp n).rxq = s.rxq := rfl
@[simp] theorem State.setSvEtemp_out (s : State) (n : Half) : (s.setSvEtemp n).out = s.out := rfl
@[simp] theorem State.setSvEtemp_replies (s : State) (n : Half) : (s.setSvEtemp n).replies = s.replies := rfl
@[simp] theorem State.setSvEtemp_moves (s : State) (n : Half) : (s.setSvEtemp n).moves = s.moves := rfl

@[simp] theorem State.setSvPos_fb (s : State) (x y : Half) : (s.setSvPos x y).fb = s.fb := rfl
@[simp] theorem State.setSvPos_nf (s : State) (x y : Half) : (s.setSvPos x y).nf = s.nf := rfl
@[simp] theorem State.setSvPos_fmi (s : State) (x y : Half) : (s.setSvPos x y).fmi = s.fmi := rfl
@[simp] theorem State.setSvPos_svLin (s : State) (x y : Half) : (s.setSvPos x y).svLin = s.svLin := rfl
@[simp] theorem State.setSvPos_svEtemp (s : State) (x y : Half) : (s.setSvPos x y).svEtemp = s.svEtemp := rfl
@[simp] theorem State.setSvPos_svPos (s : State) (x y : Half) : (s.setSvPos x y).svPos = ⟨x, y, true⟩ := rfl
@[simp] theorem State.setSvPos_svOri (s : State) (x y : Half) : (s.setSvPos x y).svOri = s.svOri := rfl
@[simp] theorem State.setSvPos_rxq (s : State) (x y : Half) : (s.setSvPos x y).rxq = s.rxq := rfl
@[simp] theorem State.setSvPos_out (s : State) (x y : Half) : (s.setSvPos x y).out = s.out := rfl
@[simp] theorem State.setSvPos_replies (s : State) (x y : Half) : (s.setSvPos x y).replies = s.replies := rfl
@[simp] theorem State.setSvPos_moves (s : State) (x y : Half) : (s.setSvPos x y).moves = s.moves := rfl

@[simp] theorem State.setSvOri_fb (s : State) (n : Half) : (s.setSvOri n).fb = s.fb := rfl
@[simp] theorem State.setSvOri_nf (s : State) (n : Half) : (s.setSvOri n).nf = s.nf := rfl
@[simp] theorem State.setSvOri_fmi (s : State) (n : Half) : (s.setSvOri n).fmi = s.fmi := rfl
@[simp] theorem State.setSvOri_svLin (s : State) (n : Half) : (s.setSvOri n).svLin = s.svLin := rfl
@[simp] theorem State.setSvOri_svEtemp (s : State) (n : Half) : (s.setSvOri n).svEtemp = s.svEtemp := rfl
@[simp] theorem State.setSvOri_svPos (s : State) (n : Half) : (s.setSvOri n).svPos = s.svPos := rfl
@[simp] theorem State.setSvOri_svOri (s : State) (n : Half) : (s.setSvOri n).svOri = ⟨n, true⟩ := rfl
@[simp] theorem State.setSvOri_rxq (s : State) (n : Half) : (s.setSvOri n).rxq = s.rxq := rfl
@[simp] theorem State.setSvOri_out (s : State) (n : Half) : (s.setSvOri n).out = s.out := rfl
@[simp] theorem State.setSvOri_replies (s : State) (n : Half) : (s.setSvOri n).replies = s.replies := rfl
@[simp] theorem State.setSvOri_moves (s : State) (n : Half) : (s.setSvOri n).moves = s.moves := rfl

@[simp] theorem State.setRxq_fb (s : State) (q : List Frame) : (s.setRxq q).fb = s.fb := rfl
@[simp] theorem State.setRxq_nf (s : State) (q : List Frame) : (s.setRxq q).nf = s.nf := rfl
@[simp] theorem State.setRxq_fmi (s : State) (q : List Frame) : (s.setRxq q).fmi = s.fmi := rfl
@[simp] theorem State.setRxq_svLin (s : State) (q : List Frame) : (s.setRxq q).svLin = s.svLin := rfl
@[simp] theorem State.setRxq_svEtemp (s : State) (q : List Frame) : (s.setRxq q).svEtemp = s.svEtemp := rfl
@[simp] theorem State.setRxq_svPos (s : State) (q : List Frame) : (s.setRxq q).svPos = s.svPos := rfl
@[simp] theorem State.setRxq_svOri (s : State) (q : List Frame) : (s.setRxq q).svOri = s.svOri := rfl
@[simp] theorem State.setRxq_rxq (s : State) (q : List Frame) : (s.setRxq q).rxq = q := rfl
@[simp] theorem State.setRxq_out (s : State) (q : List Frame) : (s.setRxq q).out = s.out := rfl
@[simp] theorem State.setRxq_replies (s : State) (q : List Frame) : (s.setRxq q).replies = s.replies := rfl
@[simp] theorem State.setRxq_moves (s : State) (q : List Frame) : (s.setRxq q).moves = s.moves := rfl

@[simp] theorem State.emit_fb (s : State) (e : Event) : (s.emit e).fb = s.fb := rfl
@[simp] theorem State.emit_nf (s : State) (e : Event) : (s.emit e).nf = s.nf := rfl
@[simp] theorem State.emit_fmi (s : State) (e : Event) : (s.emit e).fmi = s.fmi := rfl
@[simp] theorem State.emit_svLin (s : State) (e : Event) : (s.emit e).svLin = s.svLin := rfl
@[simp] theorem State.emit_svEtemp (s : State) (e : Event) : (s.emit e).svEtemp = s.svEtemp := rfl
@[simp] theorem State.emit_svPos (s : State) (e : Event) : (s.emit e).svPos = s.svPos := rfl
@[simp] theorem State.emit_svOri (s : State) (e : Event) : (s.emit e).svOri = s.svOri := rfl
@[simp] theorem State.emit_rxq (s : State) (e : Event) : (s.emit e).rxq = s.rxq := rfl
@[simp] theorem State.emit_out (s : State) (e : Event) : (s.emit e).out = s.out ++ [e] := rfl
@[simp] theorem State.emit_replies (s : State) (e : Event) : (s.emit e).replies = s.replies := rfl
@[simp] theorem State.emit_moves (s : State) (e : Event) : (s.emit e).moves = s.moves := rfl

@[simp] theorem State.answer_fb (s : State) (r : Reply) : (s.answer r).fb = s.fb := rfl
@[simp] theorem State.answer_nf (s : State) (r : Reply) : (s.answer r).nf = s.nf := rfl
@[simp] theorem State.answer_fmi (s : State) (r : Reply) : (s.answer r).fmi = s.fmi := rfl
@[simp] theorem State.answer_svLin (s : State) (r : Reply) : (s.answer r).svLin = s.svLin := rfl
@[simp] theorem State.answer_svEtemp (s : State) (r : Reply) : (s.answer r).svEtemp = s.svEtemp := rfl
@[simp] theorem State.answer_svPos (s : State) (r : Reply) : (s.answer r).svPos = s.svPos := rfl
@[simp] theorem State.answer_svOri (s : State) (r : Reply) : (s.answer r).svOri = s.svOri := rfl
@[simp] theorem State.answer_rxq (s : State) (r : Reply) : (s.answer r).rxq = s.rxq := rfl
@[simp] theorem State.answer_out (s : State) (r : Reply) : (s.answer r).out = s.out := rfl
@[simp] theorem State.answer_replies (s : State) (r : Reply) : (s.answer r).replies = s.replies ++ [r] := rfl
@[simp] theorem State.answer_moves (s : State) (r : Reply) : (s.answer r).moves = s.moves := rfl

@[simp] theorem State.setMoves_fb (s : State) (m : List HostMove) : (s.setMoves m).fb = s.fb := rfl
@[simp] theorem State.setMoves_nf (s : State) (m : List HostMove) : (s.setMoves m).nf = s.nf := rfl
@[simp] theorem State.setMoves_fmi (s : State) (m : List HostMove) : (s.setMoves m).fmi = s.fmi := rfl
@[simp] theorem State.setMoves_svLin (s : State) (m : List HostMove) : (s.setMoves m).svLin = s.svLin := rfl
@[simp] theorem State.setMoves_svEtemp (s : State) (m : List HostMove) : (s.setMoves m).svEtemp = s.svEtemp := rfl
@[simp] theorem State.setMoves_svPos (s : State) (m : List HostMove) : (s.setMoves m).svPos = s.svPos := rfl
@[simp] theorem State.setMoves_svOri (s : State) (m : List HostMove) : (s.setMoves m).svOri = s.svOri := rfl
@[simp] theorem State.setMoves_rxq (s : State) (m : List HostMove) : (s.setMoves m).rxq = s.rxq := rfl
@[simp] theorem State.setMoves_out (s : State) (m : List HostMove) : (s.setMoves m).out = s.out := rfl
@[simp] theorem State.setMoves_replies (s : State) (m : List HostMove) : (s.setMoves m).replies = s.replies := rfl
@[simp] theorem State.setMoves_moves (s : State) (m : List HostMove) : (s.setMoves m).moves = m := rfl

end Sys2Proof.Machine
end

