-- ==== Sys2Proof/Laws/Handlers.lean ====
section
/-! SUPPORT. Everything a handler can do, said once: the inversion of the frame-selected operations,
and of the draining loop. -/

namespace Sys2Proof.Machine

/-- What each handler does with a frame it accepts: every way it can end, as a record update. -/
inductive HandlerEffect (f : Frame) (s : State) : Handler → State → Prop where
  | bitmap (b : BitmapSub) (work : Byte)
      (hbits : ∀ i, i < 7 → work.getLsbD i = ((s.fb.get b).getLsbD i || f.data[i]? != some 0))
      (hseven : work.getLsbD 7 = (s.fb.get b).getLsbD 7) :
      HandlerEffect f s (bitmapHandler b) { s with
        fb := s.fb.set b work
        nf := s.nf.set b (newFaultsMask (s.fb.get b) work)
        out := if newFaultsMask (s.fb.get b) work = 0 then s.out
          else s.out ++ [.newFault b work (newFaultsMask (s.fb.get b) work)] }
  | dm1 (d : Dm1Sub) (lane : Byte) (hlane : f.data[4]? = some lane) :
      HandlerEffect f s (dm1Handler d) { s with
        fmi := s.fmi.set d (BitVec.ofNat 8 (lane.toNat % 32))
        out := s.out ++ [.fmiChanged d (BitVec.ofNat 8 (lane.toNat % 32))] }
  | linear (msb lsb : Byte) (hm : f.data[0]? = some msb) (hl : f.data[1]? = some lsb) :
      HandlerEffect f s .sigLin { s with
        svLin := ⟨msb ++ lsb, true⟩
        out := s.out ++ [.signalChanged (.linearDisplacement (msb ++ lsb))] }
  | temperature (b : Byte) (hb : f.data[0]? = some b) :
      HandlerEffect f s .sigEtemp { s with
        svEtemp := ⟨temperatureNumerator b, true⟩
        out := s.out ++ [.signalChanged (.engineTemperature (temperatureNumerator b))] }
  | position (xm xl ym yl : Byte) (h0 : f.data[0]? = some xm) (h1 : f.data[1]? = some xl)
      (h2 : f.data[2]? = some ym) (h3 : f.data[3]? = some yl) :
      HandlerEffect f s .sigPos { s with
        svPos := ⟨xm ++ xl, ym ++ yl, true⟩
        out := s.out ++ [.signalChanged (.vehiclePosition (xm ++ xl) (ym ++ yl))] }
  | orientation (msb lsb : Byte) (hm : f.data[1]? = some msb) (hl : f.data[2]? = some lsb) :
      HandlerEffect f s .sigOri { s with
        svOri := ⟨msb ++ lsb, true⟩
        out := s.out ++ [.signalChanged (.vehicleOrientation (msb ++ lsb))] }
  | acknowledge : HandlerEffect f s .testAck
      { s with out := s.out ++ [.frameOut Config.ackId Config.ackData] }
  | drop : HandlerEffect f s .drop s

/-- The operation of a handler, without its caller. -/
def handleOf : Handler → Frame → State → Handled
  | .bmpTach => handleBmpTach
  | .bmpFuel => handleBmpFuel
  | .bmpTherm => handleBmpTherm
  | .dm1Lin => handleDm1Lin
  | .dm1Temp => handleDm1Temp
  | .dm1Pos => handleDm1Pos
  | .sigLin => handleSigLin
  | .sigEtemp => handleSigEtemp
  | .sigPos => handleSigPos
  | .sigOri => handleSigOri
  | .testAck => handleTestAck
  | .drop => handleDrop

theorem handle_eq_handleOf (f : Frame) (s : State) : handle f s = handleOf (select f.id) f s := by
  unfold handle
  cases select f.id <;> rfl

theorem exec_instr (h : Handler) (f : Frame) (s : State) :
    exec (h.instr f) s = returnToHost s (handleOf h f s) := by cases h <;> rfl

theorem exec_dispatch (f : Frame) (s : State) :
    exec (.dispatch f) s = returnToHost s (handleOf (select f.id) f s) :=
  congrArg (returnToHost s) (handle_eq_handleOf f s)

theorem exec_drain (s : State) : exec .drain s = drainQueue s.rxq s := rfl

theorem updateBitmap_effect (b : BitmapSub) (f : Frame) (s : State) (h : 7 ≤ f.data.length) :
    ∃ t, updateBitmap b f s = .done t ∧ HandlerEffect f s (bitmapHandler b) t := by
  obtain ⟨work, hw, hbits, h7⟩ := raiseIndicators_faultLanes f.data (s.fb.get b) h
  refine ⟨_, ?_, .bitmap b work hbits h7⟩
  simp only [updateBitmap, hw]
  by_cases hz : newFaultsMask (s.fb.get b) work = 0
  · simp [hz, State.setFb, State.setNf]
  · simp only [hz, ne_eq, not_false_eq_true, if_true, if_false]
    rfl

theorem updateDm1_effect (d : Dm1Sub) (f : Frame) (s : State) (h : 4 < f.data.length) :
    ∃ t, updateDm1 d f s = .done t ∧ HandlerEffect f s (dm1Handler d) t :=
  ⟨_, by simp only [updateDm1, fmiOperand_eq_some h]; rfl, .dm1 d f.data[4] (by simp [h])⟩

theorem lane_of_lt {p : List Byte} {i : Nat} (h : i < p.length) : ∃ b, p[i]? = some b :=
  ⟨p[i], List.getElem?_eq_getElem h⟩

theorem extractLin_effect (f : Frame) (s : State) (h : 2 ≤ f.data.length) :
    ∃ t, extractLin f s = .done t ∧ HandlerEffect f s .sigLin t := by
  obtain ⟨m, hm⟩ := lane_of_lt (p := f.data) (i := 0) (by omega)
  obtain ⟨l, hl⟩ := lane_of_lt (p := f.data) (i := 1) (by omega)
  exact ⟨_, by simp only [extractLin, memRead2_of_lanes hm hl]; rfl, .linear m l hm hl⟩

theorem extractEtemp_effect (f : Frame) (s : State) (h : 1 ≤ f.data.length) :
    ∃ t, extractEtemp f s = .done t ∧ HandlerEffect f s .sigEtemp t := by
  obtain ⟨b, hb⟩ := lane_of_lt (p := f.data) (i := 0) (by omega)
  exact ⟨_, by simp only [extractEtemp, memRead1, hb]; rfl, .temperature b hb⟩

theorem extractPos_effect (f : Frame) (s : State) (h : 4 ≤ f.data.length) :
    ∃ t, extractPos f s = .done t ∧ HandlerEffect f s .sigPos t := by
  obtain ⟨xm, h0⟩ := lane_of_lt (p := f.data) (i := 0) (by omega)
  obtain ⟨xl, h1⟩ := lane_of_lt (p := f.data) (i := 1) (by omega)
  obtain ⟨ym, h2⟩ := lane_of_lt (p := f.data) (i := 2) (by omega)
  obtain ⟨yl, h3⟩ := lane_of_lt (p := f.data) (i := 3) (by omega)
  exact ⟨_, by simp only [extractPos, memRead2_of_lanes h0 h1, memRead2_of_lanes h2 h3]; rfl,
    .position xm xl ym yl h0 h1 h2 h3⟩

theorem extractOri_effect (f : Frame) (s : State) (h : 3 ≤ f.data.length) :
    ∃ t, extractOri f s = .done t ∧ HandlerEffect f s .sigOri t := by
  obtain ⟨m, hm⟩ := lane_of_lt (p := f.data) (i := 1) (by omega)
  obtain ⟨l, hl⟩ := lane_of_lt (p := f.data) (i := 2) (by omega)
  exact ⟨_, by simp only [extractOri, memRead2_of_lanes hm hl]; rfl, .orientation m l hm hl⟩

theorem guardLength_short {min : Nat} {f : Frame} {body : Handled} (h : f.data.length < min) :
    guardLength min f body = .raised .malformedPayload := by simp [guardLength, h]

theorem guardLength_long {min : Nat} {f : Frame} {body : Handled} (h : min ≤ f.data.length) :
    guardLength min f body = body := by simp [guardLength, Nat.not_lt.mpr h]

/-- A frame shorter than its handler's minimum (R126). -/
theorem handleOf_short (h : Handler) (f : Frame) (s : State) (hs : f.data.length < minlen h) :
    handleOf h f s = .raised .malformedPayload := by
  cases h
  case drop => simp [minlen] at hs
  all_goals exact guardLength_short hs

theorem guardLength_done {min : Nat} {f : Frame} {body : Handled} {P : State → Prop}
    (hl : min ≤ f.data.length) (hb : ∃ t, body = .done t ∧ P t) :
    ∃ t, guardLength min f body = .done t ∧ P t := by rwa [guardLength_long hl]

/-- A frame long enough for its handler: the handler finishes with its effect. -/
theorem handleOf_long (h : Handler) (f : Frame) (s : State) (hl : minlen h ≤ f.data.length) :
    ∃ t, handleOf h f s = .done t ∧ HandlerEffect f s h t := by
  cases h
  case bmpTach =>
    exact guardLength_done hl (updateBitmap_effect .tachometer f s (Nat.le_of_succ_le hl))
  case bmpFuel =>
    exact guardLength_done hl (updateBitmap_effect .fuelGauge f s (Nat.le_of_succ_le hl))
  case bmpTherm =>
    exact guardLength_done hl (updateBitmap_effect .thermometer f s (Nat.le_of_succ_le hl))
  case dm1Lin => exact guardLength_done hl (updateDm1_effect .linear f s hl)
  case dm1Temp => exact guardLength_done hl (updateDm1_effect .temperature f s hl)
  case dm1Pos => exact guardLength_done hl (updateDm1_effect .position f s hl)
  case sigLin => exact guardLength_done hl (extractLin_effect f s hl)
  case sigEtemp => exact guardLength_done hl (extractEtemp_effect f s hl)
  case sigPos => exact guardLength_done hl (extractPos_effect f s hl)
  case sigOri => exact guardLength_done hl (extractOri_effect f s hl)
  case testAck => exact ⟨_, guardLength_long hl, .acknowledge⟩
  case drop => exact ⟨_, rfl, .drop⟩

/-- What the draining loop does over a queue, frame by frame (R123, R124). -/
inductive Drained : List Frame → State → State → Prop where
  | empty (s : State) : Drained [] s s
  | handled {f : Frame} {q : List Frame} {s t u : State}
      (hl : minlen (select f.id) ≤ f.data.length)
      (heff : HandlerEffect f (s.setRxq q) (select f.id) t) (rest : Drained q t u) :
      Drained (f :: q) s u
  | malformed {f : Frame} {q : List Frame} {s u : State}
      (hs : f.data.length < minlen (select f.id))
      (rest : Drained q (reportFrameError .malformedPayload f.id (s.setRxq q)) u) :
      Drained (f :: q) s u

/-- The draining loop always ends, with status OK. -/
theorem drainQueue_spec (q : List Frame) (s : State) :
    ∃ t, drainQueue q s = .next (t.answer ⟨.ok, .empty⟩) ∧ Drained q s t := by
  induction q generalizing s with
  | nil => exact ⟨s, rfl, .empty s⟩
  | cons f q ih =>
    rw [drainQueue, handle_eq_handleOf]
    by_cases hs : f.data.length < minlen (select f.id)
    · rw [handleOf_short _ _ _ hs]
      obtain ⟨t, ht, hd⟩ := ih (reportFrameError .malformedPayload f.id (s.setRxq q))
      exact ⟨t, ht, .malformed hs hd⟩
    · have hl := Nat.not_lt.mp hs
      obtain ⟨t, ht, heff⟩ := handleOf_long (select f.id) f (s.setRxq q) hl
      rw [ht]
      obtain ⟨u, hu, hd⟩ := ih t
      exact ⟨u, hu, .handled hl heff hd⟩

/-- What one instruction can do: every instruction completes in one of these ways. -/
inductive ExecEffect (s : State) : Instr → State → Prop where
  | handled (h : Handler) (f : Frame) (t : State) (hl : minlen h ≤ f.data.length)
      (heff : HandlerEffect f s h t) : ExecEffect s (h.instr f) (t.answer ⟨.ok, .empty⟩)
  | malformed (h : Handler) (f : Frame) (hs : f.data.length < minlen h) :
      ExecEffect s (h.instr f) (s.answer ⟨.malformedPayload, .empty⟩)
  | dispatched (f : Frame) (t : State) (hl : minlen (select f.id) ≤ f.data.length)
      (heff : HandlerEffect f s (select f.id) t) :
      ExecEffect s (.dispatch f) (t.answer ⟨.ok, .empty⟩)
  | dispatchMalformed (f : Frame) (hs : f.data.length < minlen (select f.id)) :
      ExecEffect s (.dispatch f) (s.answer ⟨.malformedPayload, .empty⟩)
  | drained (t : State) (hd : Drained s.rxq s t) : ExecEffect s .drain (t.answer ⟨.ok, .empty⟩)
  | resetBitmap (b : BitmapSub) :
      ExecEffect s (.ftReset (.bitmap b)) ((s.setFb b 0x80).answer ⟨.ok, .empty⟩)
  | resetDm1 (d : Dm1Sub) : ExecEffect s (.ftReset (.dm1 d)) (s.answer ⟨.ok, .empty⟩)
  | decoded (id : Word) : ExecEffect s (.decodeId id) (s.answer ⟨.ok, identFields id⟩)
  | encoded (pri : Word) (edp dp : BitVec 1) (pgn sa id : Word)
      (h : packIdent pri edp dp pgn sa = some id) :
      ExecEffect s (.encodeId pri edp dp pgn sa) (s.answer ⟨.ok, .ident id⟩)
  | encodeInvalid (pri : Word) (edp dp : BitVec 1) (pgn sa : Word)
      (h : packIdent pri edp dp pgn sa = none) :
      ExecEffect s (.encodeId pri edp dp pgn sa) (s.answer ⟨.invalidField, .empty⟩)
  | builtReset (sel : Byte) (id : Word) (data : Lanes) (h : resetFrame sel = some (id, data)) :
      ExecEffect s (.buildReset sel) ((s.emit (.frameOut id data)).answer ⟨.ok, .frame id data⟩)
  | resetInvalid (sel : Byte) (h : resetFrame sel = none) :
      ExecEffect s (.buildReset sel) (s.answer ⟨.invalidField, .empty⟩)
  | builtSetpoint (sel v : Byte) (id : Word) (data : Lanes)
      (h : setpointFrame sel v = some (id, data)) :
      ExecEffect s (.buildSetpoint sel v)
        ((s.emit (.frameOut id data)).answer ⟨.ok, .frame id data⟩)
  | setpointInvalid (sel v : Byte) (h : setpointFrame sel v = none) :
      ExecEffect s (.buildSetpoint sel v) (s.answer ⟨.invalidField, .empty⟩)
  | adjusted (current delta : Byte) : ExecEffect s (.adjust current delta)
      (s.answer ⟨.ok, .byte (adjustSetpoint current delta)⟩)
  | readValue (reg : RegName) (v : Result) (h : readRegister s reg = some v) :
      ExecEffect s (.read reg) (s.answer ⟨.ok, v⟩)
  | readNothing (reg : RegName) (h : readRegister s reg = none) :
      ExecEffect s (.read reg) (s.answer ⟨.noValue, .empty⟩)

theorem exec_instr_effect (h : Handler) (f : Frame) (s : State) :
    ∃ t, exec (h.instr f) s = .next t ∧ ExecEffect s (h.instr f) t := by
  rw [exec_instr]
  by_cases hs : f.data.length < minlen h
  · rw [handleOf_short _ _ _ hs]
    exact ⟨_, rfl, .malformed h f hs⟩
  · obtain ⟨t, ht, heff⟩ := handleOf_long h f s (Nat.not_lt.mp hs)
    rw [ht]
    exact ⟨_, rfl, .handled h f t (Nat.not_lt.mp hs) heff⟩

theorem exec_dispatch_effect (f : Frame) (s : State) :
    ∃ t, exec (.dispatch f) s = .next t ∧ ExecEffect s (.dispatch f) t := by
  rw [exec_dispatch]
  by_cases hs : f.data.length < minlen (select f.id)
  · rw [handleOf_short _ _ _ hs]
    exact ⟨_, rfl, .dispatchMalformed f hs⟩
  · obtain ⟨t, ht, heff⟩ := handleOf_long _ f s (Nat.not_lt.mp hs)
    rw [ht]
    exact ⟨_, rfl, .dispatched f t (Nat.not_lt.mp hs) heff⟩

/-- What `exec` can answer, for every instruction and state. -/
theorem exec_spec (i : Instr) (s : State) : ∃ t, exec i s = .next t ∧ ExecEffect s i t := by
  cases i with
  | bmpTach f => exact exec_instr_effect .bmpTach f s
  | bmpFuel f => exact exec_instr_effect .bmpFuel f s
  | bmpTherm f => exact exec_instr_effect .bmpTherm f s
  | dm1Lin f => exact exec_instr_effect .dm1Lin f s
  | dm1Temp f => exact exec_instr_effect .dm1Temp f s
  | dm1Pos f => exact exec_instr_effect .dm1Pos f s
  | sigLin f => exact exec_instr_effect .sigLin f s
  | sigEtemp f => exact exec_instr_effect .sigEtemp f s
  | sigPos f => exact exec_instr_effect .sigPos f s
  | sigOri f => exact exec_instr_effect .sigOri f s
  | testAck f => exact exec_instr_effect .testAck f s
  | drop f => exact exec_instr_effect .drop f s
  | decodeId id => exact ⟨_, rfl, .decoded id⟩
  | encodeId pri edp dp pgn sa =>
    cases h : packIdent pri edp dp pgn sa with
    | none => exact ⟨_, by simp only [exec, execEncodeId, h]; rfl, .encodeInvalid _ _ _ _ _ h⟩
    | some id => exact ⟨_, by simp only [exec, execEncodeId, h]; rfl, .encoded _ _ _ _ _ id h⟩
  | dispatch f => exact exec_dispatch_effect f s
  | drain =>
    obtain ⟨t, ht, hd⟩ := drainQueue_spec s.rxq s
    exact ⟨_, ht, .drained t hd⟩
  | ftReset sub =>
    cases sub with
    | bitmap b => exact ⟨_, rfl, .resetBitmap b⟩
    | dm1 d => exact ⟨_, rfl, .resetDm1 d⟩
  | buildReset sel =>
    cases h : resetFrame sel with
    | none => exact ⟨_, by simp only [exec, execBuildReset, h]; rfl, .resetInvalid sel h⟩
    | some p => exact ⟨_, by simp only [exec, execBuildReset, h]; rfl, .builtReset sel p.1 p.2 h⟩
  | buildSetpoint sel v =>
    cases h : setpointFrame sel v with
    | none => exact ⟨_, by simp only [exec, execBuildSetpoint, h]; rfl, .setpointInvalid sel v h⟩
    | some p =>
      exact ⟨_, by simp only [exec, execBuildSetpoint, h]; rfl, .builtSetpoint sel v p.1 p.2 h⟩
  | adjust current delta => exact ⟨_, rfl, .adjusted current delta⟩
  | read reg =>
    cases h : readRegister s reg with
    | none => exact ⟨_, by simp only [exec, execRead, h]; rfl, .readNothing reg h⟩
    | some v => exact ⟨_, by simp only [exec, execRead, h]; rfl, .readValue reg v h⟩

/-- The inversion of `exec`: if it answers a next state, that state is one of these. -/
theorem exec_next {i : Instr} {s t : State} (h : exec i s = .next t) : ExecEffect s i t := by
  obtain ⟨u, hu, heff⟩ := exec_spec i s
  rw [hu] at h
  injection h with h
  exact h ▸ heff

end Sys2Proof.Machine
end

