-- ==== Sys2Proof/Laws/Frames.lean ====
section
/-! SUPPORT. What each way of ending leaves unchanged: one lemma per promise for a handler's effect and
for a drained queue, and the value of a packed identifier (R40, R33, R23, R25, R28, R101). -/

namespace Sys2Proof.Machine

variable {f : Frame} {q : List Frame} {h : Handler} {s t : State}

/-- A handler touches neither the queue nor the host's side. -/
theorem HandlerEffect.host_side (he : HandlerEffect f s h t) :
    t.moves = s.moves ∧ t.replies = s.replies ∧ t.rxq = s.rxq := by
  cases he <;> exact ⟨rfl, rfl, rfl⟩

theorem Drained.host_side (hd : Drained q s t) : t.moves = s.moves ∧ t.replies = s.replies := by
  induction hd with
  | empty => exact ⟨rfl, rfl⟩
  | handled _ he _ ih => exact ⟨ih.1.trans he.host_side.1, ih.2.trans he.host_side.2.1⟩
  | malformed _ _ ih => exact ih

/-- `s` with another host's side: the queue, the replies given and the moves to come. -/
def State.withHostSide (s : State) (q : List Frame) (r : List Reply) (m : List HostMove) : State :=
  { s with rxq := q, replies := r, moves := m }

/-- What a handler did, carried over to another host's side. -/
def Handled.withHostSide (x : Handled) (q : List Frame) (r : List Reply) (m : List HostMove) :
    Handled :=
  match x with
  | .done t => .done (t.withHostSide q r m)
  | .raised e => .raised e
  | .outOfBounds => .outOfBounds

theorem guardLength_withHostSide (min : Nat) (f : Frame) (body : Handled) (q : List Frame)
    (r : List Reply) (m : List HostMove) :
    (guardLength min f body).withHostSide q r m = guardLength min f (body.withHostSide q r m) := by
  unfold guardLength
  split <;> rfl

theorem updateBitmap_withHostSide (b : BitmapSub) (f : Frame) (s : State) (q : List Frame)
    (r : List Reply) (m : List HostMove) :
    updateBitmap b f (s.withHostSide q r m) = (updateBitmap b f s).withHostSide q r m := by
  simp only [updateBitmap, State.withHostSide]
  cases raiseIndicators f.data faultLanes (s.fb.get b) with
  | none => rfl
  | some w =>
    by_cases hz : newFaultsMask (s.fb.get b) w = 0
    · simp only [hz, ne_eq, not_true_eq_false, if_false]
      rfl
    · simp only [hz, ne_eq, not_false_eq_true, if_true]
      rfl

/-- A handler neither reads nor writes the host's side (R51, R64). -/
theorem handleOf_withHostSide (h : Handler) (f : Frame) (s : State) (q : List Frame)
    (r : List Reply) (m : List HostMove) :
    handleOf h f (s.withHostSide q r m) = (handleOf h f s).withHostSide q r m := by
  cases h <;>
    simp only [handleOf, handleBmpTach, handleBmpFuel, handleBmpTherm, handleDm1Lin, handleDm1Temp,
      handleDm1Pos, handleSigLin, handleSigEtemp, handleSigPos, handleSigOri, handleTestAck,
      handleDrop, guardLength_withHostSide, updateBitmap_withHostSide]
  case dm1Lin => simp only [updateDm1]; cases fmiOperand f.data <;> rfl
  case dm1Temp => simp only [updateDm1]; cases fmiOperand f.data <;> rfl
  case dm1Pos => simp only [updateDm1]; cases fmiOperand f.data <;> rfl
  case sigLin => simp only [extractLin]; cases memRead2 f.data 0 <;> rfl
  case sigEtemp => simp only [extractEtemp]; cases memRead1 f.data 0 <;> rfl
  case sigPos =>
    simp only [extractPos]
    cases memRead2 f.data 0 <;> cases memRead2 f.data 2 <;> rfl
  case sigOri => simp only [extractOri]; cases memRead2 f.data 1 <;> rfl
  all_goals rfl

/-- Every frame leaves the queue (R123). -/
theorem Drained.rxq_eq (hd : Drained q s t) (hs : s.rxq = q) : t.rxq = [] := by
  induction hd with
  | empty => exact hs
  | handled _ he _ ih => exact ih he.host_side.2.2
  | malformed _ _ ih => exact ih rfl

theorem instr_ne_drain (h : Handler) (f : Frame) : h.instr f ≠ .drain := by
  cases h <;> nofun

theorem instr_ne_ftReset (h : Handler) (f : Frame) (sub : Subsystem) :
    h.instr f ≠ .ftReset sub := by cases h <;> nofun

theorem handlersRun_instr (s : State) (h : Handler) (f : Frame) :
    handlersRun s (h.instr f) = [h] := by cases h <;> rfl

/-- No two bitmap subsystems share a handler. -/
theorem bitmapHandler_inj {b c : BitmapSub} (h : bitmapHandler b = bitmapHandler c) : b = c := by
  cases b <;> cases c <;> first | rfl | cases h

theorem dm1Handler_inj {d e : Dm1Sub} (h : dm1Handler d = dm1Handler e) : d = e := by
  cases d <;> cases e <;> first | rfl | cases h

/-- The registers `hs` may write, by the access table (R40): every other one is the same in `t`. -/
def WritesOnly (hs : List Handler) (s t : State) : Prop :=
  (∀ b, bitmapHandler b ∉ hs → t.fb.get b = s.fb.get b ∧ t.nf.get b = s.nf.get b) ∧
  (∀ d, dm1Handler d ∉ hs → t.fmi.get d = s.fmi.get d) ∧
  (.sigLin ∉ hs → t.svLin = s.svLin) ∧ (.sigEtemp ∉ hs → t.svEtemp = s.svEtemp) ∧
  (.sigPos ∉ hs → t.svPos = s.svPos) ∧ (.sigOri ∉ hs → t.svOri = s.svOri)

theorem WritesOnly.refl (hs : List Handler) (s : State) : WritesOnly hs s s :=
  ⟨fun _ _ => ⟨rfl, rfl⟩, fun _ _ => rfl, fun _ => rfl, fun _ => rfl, fun _ => rfl, fun _ => rfl⟩

theorem WritesOnly.cons {u : State} {hs : List Handler} (h1 : WritesOnly [h] s t)
    (h2 : WritesOnly hs t u) : WritesOnly (h :: hs) s u := by
  have key : ∀ k : Handler, k ∉ h :: hs → k ∉ [h] ∧ k ∉ hs := by
    intro k hk
    simpa [not_or] using hk
  obtain ⟨a1, a2, a3, a4, a5, a6⟩ := h1
  obtain ⟨b1, b2, b3, b4, b5, b6⟩ := h2
  refine ⟨fun b hb => ?_, fun d hd => ?_, fun k => ?_, fun k => ?_, fun k => ?_, fun k => ?_⟩
  · exact ⟨(b1 b (key _ hb).2).1.trans (a1 b (key _ hb).1).1,
      (b1 b (key _ hb).2).2.trans (a1 b (key _ hb).1).2⟩
  · exact (b2 d (key _ hd).2).trans (a2 d (key _ hd).1)
  · exact (b3 (key _ k).2).trans (a3 (key _ k).1)
  · exact (b4 (key _ k).2).trans (a4 (key _ k).1)
  · exact (b5 (key _ k).2).trans (a5 (key _ k).1)
  · exact (b6 (key _ k).2).trans (a6 (key _ k).1)

/-- A handler writes only the registers of its own row (R40). -/
theorem HandlerEffect.writesOnly (he : HandlerEffect f s h t) : WritesOnly [h] s t := by
  cases he with
  | bitmap b work _ _ =>
    refine ⟨fun c hc => ?_, fun _ _ => rfl, fun _ => rfl, fun _ => rfl, fun _ => rfl, fun _ => rfl⟩
    have hne : ¬ c = b := by rintro rfl; exact hc (List.mem_singleton.mpr rfl)
    simp [BitmapBank.get_set, hne]
  | dm1 d lane _ =>
    refine ⟨fun _ _ => ⟨rfl, rfl⟩, fun c hc => ?_, fun _ => rfl, fun _ => rfl, fun _ => rfl,
      fun _ => rfl⟩
    have hne : ¬ c = d := by rintro rfl; exact hc (List.mem_singleton.mpr rfl)
    simp [FmiBank.get_set, hne]
  | linear => exact ⟨fun _ _ => ⟨rfl, rfl⟩, fun _ _ => rfl, fun hn => absurd (by simp) hn,
      fun _ => rfl, fun _ => rfl, fun _ => rfl⟩
  | temperature => exact ⟨fun _ _ => ⟨rfl, rfl⟩, fun _ _ => rfl, fun _ => rfl,
      fun hn => absurd (by simp) hn, fun _ => rfl, fun _ => rfl⟩
  | position => exact ⟨fun _ _ => ⟨rfl, rfl⟩, fun _ _ => rfl, fun _ => rfl, fun _ => rfl,
      fun hn => absurd (by simp) hn, fun _ => rfl⟩
  | orientation => exact ⟨fun _ _ => ⟨rfl, rfl⟩, fun _ _ => rfl, fun _ => rfl, fun _ => rfl,
      fun _ => rfl, fun hn => absurd (by simp) hn⟩
  | acknowledge => exact .refl _ _
  | drop => exact .refl _ _

theorem Drained.writesOnly (hd : Drained q s t) :
    WritesOnly (q.map fun f => select f.id) s t := by
  induction hd with
  | empty => exact .refl _ _
  | handled _ he _ ih => exact (he.writesOnly).cons ih
  | malformed _ _ ih => exact (WritesOnly.refl _ _).cons ih

/-- A handler appends at most one event (R33, R34). -/
theorem HandlerEffect.out_grows (he : HandlerEffect f s h t) :
    ∃ new, t.out = s.out ++ new ∧ new.length ≤ 1 := by
  cases he with
  | bitmap b work _ _ =>
    simp only
    split
    · exact ⟨[], by simp, by simp⟩
    · exact ⟨_, rfl, by simp⟩
  | drop => exact ⟨[], by simp, by simp⟩
  | _ => exact ⟨_, rfl, by simp⟩

theorem Drained.out_grows (hd : Drained q s t) :
    ∃ new, t.out = s.out ++ new ∧ new.length ≤ q.length := by
  induction hd with
  | empty => exact ⟨[], by simp, by simp⟩
  | handled _ he _ ih =>
    obtain ⟨new, hn, hl⟩ := ih
    obtain ⟨one, ho, hl'⟩ := he.out_grows
    exact ⟨one ++ new, by rw [hn, ho]; simp, by simp; omega⟩
  | @malformed f q s u _ _ ih =>
    obtain ⟨new, hn, hl⟩ := ih
    exact ⟨.frameError .malformedPayload f.id :: new, by rw [hn]; simp [reportFrameError],
      by simp; omega⟩

/-- A handler clears no fault bit (R23, R146). -/
theorem HandlerEffect.latched (he : HandlerEffect f s h t) (b : BitmapSub) :
    t.fb.get b &&& s.fb.get b = s.fb.get b := by
  cases he with
  | bitmap c work hbits hseven =>
    simp only [BitmapBank.get_set]
    split
    · rename_i hbc
      subst hbc
      apply BitVec.eq_of_getLsbD_eq
      intro i hi
      rw [BitVec.getLsbD_and]
      by_cases h7 : i < 7
      · rw [hbits i h7]
        cases (s.fb.get b).getLsbD i <;> simp
      · obtain rfl : i = 7 := by omega
        rw [hseven, Bool.and_self]
    · exact BitVec.and_self
  | _ => exact BitVec.and_self

theorem Drained.latched (hd : Drained q s t) (b : BitmapSub) :
    t.fb.get b &&& s.fb.get b = s.fb.get b := by
  induction hd with
  | empty => exact BitVec.and_self
  | handled _ he _ ih =>
    have h1 := he.latched b
    rw [State.setRxq_fb] at h1
    rw [← h1, ← BitVec.and_assoc, ih]
  | malformed _ _ ih => exact ih

/-- The four valid marks, as one vector of truths: `t` keeps those of `s`. -/
def KeepsMarks (s t : State) : Prop :=
  (s.svLin.valid = true → t.svLin.valid = true) ∧
  (s.svEtemp.valid = true → t.svEtemp.valid = true) ∧
  (s.svPos.valid = true → t.svPos.valid = true) ∧ (s.svOri.valid = true → t.svOri.valid = true)

theorem HandlerEffect.keepsMarks (he : HandlerEffect f s h t) : KeepsMarks s t := by
  cases he <;> simp [KeepsMarks]

theorem Drained.keepsMarks (hd : Drained q s t) : KeepsMarks s t := by
  induction hd with
  | empty => exact ⟨id, id, id, id⟩
  | handled _ he _ ih =>
    obtain ⟨a1, a2, a3, a4⟩ := he.keepsMarks
    obtain ⟨b1, b2, b3, b4⟩ := ih
    exact ⟨b1 ∘ a1, b2 ∘ a2, b3 ∘ a3, b4 ∘ a4⟩
  | malformed _ _ ih => exact ih

theorem HandlerEffect.newFaultsInside (he : HandlerEffect f s h t) (hi : s.NewFaultsInside) :
    t.NewFaultsInside := by
  cases he with
  | bitmap c work _ _ =>
    intro b
    simp only [BitmapBank.get_set]
    split
    · rw [newFaultsMask_eq]
      ext i hi
      cases hw : work[i] <;> simp [hw]
    · exact hi b
  | _ => exact hi

theorem Drained.newFaultsInside (hd : Drained q s t) (hi : s.NewFaultsInside) :
    t.NewFaultsInside := by
  induction hd with
  | empty => exact hi
  | handled _ he _ ih => exact ih (he.newFaultsInside hi)
  | malformed _ _ ih => exact ih hi

/-- The legal values survive a legal event and any reply. -/
theorem State.Inv.emit {e : Event} (hi : s.Inv) (he : e.Legal) : (s.emit e).Inv :=
  ⟨hi.fbSentinel, hi.nfNoSentinel, hi.fmiCode, hi.etempRange, hi.rxqLengths, fun x hx =>
    (List.mem_append.mp hx).elim (hi.outLegal x) fun hx => List.mem_singleton.mp hx ▸ he⟩

theorem State.Inv.answer {r : Reply} (hi : s.Inv) : (s.answer r).Inv :=
  ⟨hi.fbSentinel, hi.nfNoSentinel, hi.fmiCode, hi.etempRange, hi.rxqLengths, hi.outLegal⟩

theorem State.Inv.setMoves {m : List HostMove} (hi : s.Inv) : (s.setMoves m).Inv :=
  ⟨hi.fbSentinel, hi.nfNoSentinel, hi.fmiCode, hi.etempRange, hi.rxqLengths, hi.outLegal⟩

/-- The open identifier has 29 bits, whatever its value (R129). -/
theorem ackIdent_lt : Config.ackIdent.toNat < 2 ^ 29 := Config.ackIdent.isLt

/-- What `packIdent` accepts and gives, as a sum of shifted fields (R101, R102). -/
theorem packIdent_eq_some {pri pgn sa id : Word} {edp dp : BitVec 1}
    (h : packIdent pri edp dp pgn sa = some id) :
    pri.toNat ≤ 7 ∧ pgn.toNat ≤ 0xFFFF ∧ sa.toNat ≤ 0xFF ∧
      id.toNat = pri.toNat * 2 ^ 26 + edp.toNat * 2 ^ 25 + dp.toNat * 2 ^ 24 + pgn.toNat * 2 ^ 8 +
        sa.toNat := by
  unfold packIdent at h
  split at h
  · cases h
  rename_i hc
  simp only [not_or, Nat.not_lt] at hc
  obtain ⟨h1, h2, h3⟩ := hc
  refine ⟨h1, h2, h3, ?_⟩
  injection h with h
  have e1 := edp.isLt
  have e2 := dp.isLt
  have add {k a b : Nat} (hb : b < 2 ^ k) : 2 ^ k * a ||| b = 2 ^ k * a + b :=
    (Nat.two_pow_add_eq_or_of_lt hb a).symm
  rw [← h]
  simp only [BitVec.toNat_or, BitVec.toNat_shiftLeft, BitVec.toNat_setWidth, Nat.shiftLeft_eq]
  rw [Nat.mod_eq_of_lt (a := pri.toNat * 2 ^ 26) (by omega),
    Nat.mod_eq_of_lt (a := edp.toNat) (by omega), Nat.mod_eq_of_lt (a := dp.toNat) (by omega),
    Nat.mod_eq_of_lt (a := edp.toNat * 2 ^ 25) (by omega),
    Nat.mod_eq_of_lt (a := dp.toNat * 2 ^ 24) (by omega),
    Nat.mod_eq_of_lt (a := pgn.toNat * 2 ^ 8) (by omega)]
  rw [Nat.mul_comm pri.toNat, add (by omega),
    show 2 ^ 26 * pri.toNat + edp.toNat * 2 ^ 25 = 2 ^ 25 * (pri.toNat * 2 + edp.toNat) by ring,
    add (by omega),
    show 2 ^ 25 * (pri.toNat * 2 + edp.toNat) + dp.toNat * 2 ^ 24 =
      2 ^ 24 * (pri.toNat * 4 + edp.toNat * 2 + dp.toNat) by ring, add (by omega),
    show 2 ^ 24 * (pri.toNat * 4 + edp.toNat * 2 + dp.toNat) + pgn.toNat * 2 ^ 8 =
      2 ^ 8 * (pri.toNat * 2 ^ 18 + edp.toNat * 2 ^ 17 + dp.toNat * 2 ^ 16 + pgn.toNat) by ring,
    add (by omega)]

theorem packIdent_isSome {pri pgn sa : Word} {edp dp : BitVec 1} :
    (packIdent pri edp dp pgn sa).isSome ↔
      pri.toNat ≤ 7 ∧ pgn.toNat ≤ 0xFFFF ∧ sa.toNat ≤ 0xFF := by
  unfold packIdent
  split <;> simp <;> omega

end Sys2Proof.Machine
end

