-- ==== Sys2Proof/Laws/PerInstr.lean ====
section
/-! SUPPORT. Per instruction: the encoding of a well-formed instruction lies on its own row of the
opcode table (R84, R86). -/

namespace Sys2Proof.Laws.TableRow

/-- The request is a frame of row `h`: `id & mask = match` picks `h`, and the length is not reserved. -/
def onFrameRow (h : Handler) : Request → Prop
  | .frame raw => tableSelect raw.id = h ∧ raw.len.toNat ≤ 8
  | .command _ => False

/-- The request is the command with tag `op`. -/
def onTag (op : BitVec 4) : Request → Prop
  | .frame _ => False
  | .command p => p.op = op

def Statement (i : Instr) : Prop :=
  i.wf = true →
    match i with
    | .bmpTach _ => onFrameRow .bmpTach (encode i)
    | .bmpFuel _ => onFrameRow .bmpFuel (encode i)
    | .bmpTherm _ => onFrameRow .bmpTherm (encode i)
    | .dm1Lin _ => onFrameRow .dm1Lin (encode i)
    | .dm1Temp _ => onFrameRow .dm1Temp (encode i)
    | .dm1Pos _ => onFrameRow .dm1Pos (encode i)
    | .sigLin _ => onFrameRow .sigLin (encode i)
    | .sigEtemp _ => onFrameRow .sigEtemp (encode i)
    | .sigPos _ => onFrameRow .sigPos (encode i)
    | .sigOri _ => onFrameRow .sigOri (encode i)
    | .testAck _ => onFrameRow .testAck (encode i)
    | .drop _ => onFrameRow .drop (encode i)
    | .decodeId _ => onTag 0x0 (encode i)
    | .encodeId _ _ _ _ _ => onTag 0x1 (encode i)
    | .dispatch _ => onTag 0x2 (encode i)
    | .drain => onTag 0x3 (encode i)
    | .ftReset _ => onTag 0x4 (encode i)
    | .buildReset _ => onTag 0x5 (encode i)
    | .buildSetpoint _ _ => onTag 0x6 (encode i)
    | .adjust _ _ => onTag 0x7 (encode i)
    | .read _ => onTag 0x8 (encode i)

theorem fits_onFrameRow {h : Handler} {f : Frame} (hf : f.fits h = true) :
    onFrameRow h (.frame f.raw) := by
  obtain ⟨hlen, hrow⟩ := Bool.and_eq_true_iff.mp hf
  have hlen8 : f.data.length ≤ 8 := of_decide_eq_true hlen
  refine ⟨beq_iff_eq.mp hrow, ?_⟩
  simp only [Frame.raw, BitVec.toNat_ofNat]
  omega

theorem bmpTach (f : Frame) : Statement (.bmpTach f) := fits_onFrameRow
theorem bmpFuel (f : Frame) : Statement (.bmpFuel f) := fits_onFrameRow
theorem bmpTherm (f : Frame) : Statement (.bmpTherm f) := fits_onFrameRow
theorem dm1Lin (f : Frame) : Statement (.dm1Lin f) := fits_onFrameRow
theorem dm1Temp (f : Frame) : Statement (.dm1Temp f) := fits_onFrameRow
theorem dm1Pos (f : Frame) : Statement (.dm1Pos f) := fits_onFrameRow
theorem sigLin (f : Frame) : Statement (.sigLin f) := fits_onFrameRow
theorem sigEtemp (f : Frame) : Statement (.sigEtemp f) := fits_onFrameRow
theorem sigPos (f : Frame) : Statement (.sigPos f) := fits_onFrameRow
theorem sigOri (f : Frame) : Statement (.sigOri f) := fits_onFrameRow
theorem testAck (f : Frame) : Statement (.testAck f) := fits_onFrameRow
theorem drop (f : Frame) : Statement (.drop f) := fits_onFrameRow
theorem decodeId (id : Word) : Statement (.decodeId id) := fun _ => rfl
theorem encodeId (pri : Word) (edp dp : BitVec 1) (pgn sa : Word) :
    Statement (.encodeId pri edp dp pgn sa) := fun _ => rfl
theorem dispatch (f : Frame) : Statement (.dispatch f) := fun _ => rfl
theorem drain : Statement .drain := fun _ => rfl
theorem ftReset (sub : Subsystem) : Statement (.ftReset sub) := fun _ => rfl
theorem buildReset (sel : Byte) : Statement (.buildReset sel) := fun _ => rfl
theorem buildSetpoint (sel setpoint : Byte) : Statement (.buildSetpoint sel setpoint) := fun _ => rfl
theorem adjust (current delta : Byte) : Statement (.adjust current delta) := fun _ => rfl
theorem read (reg : RegName) : Statement (.read reg) := fun _ => rfl

end Sys2Proof.Laws.TableRow
end

