-- ==== Sys2Proof/Tests/Slice0.lean ====
section
/-! SUPPORT. Tests. The expected results are the worked examples and vectors of 95_test_vectors.md (its
ids stand in the comments) and the tables of 30_encoding.md, never the model's own answers. Then one
witness for each obligation with hypotheses, at the boundary values of its clauses. -/

namespace Sys2Proof.Machine

/-! ## WellFormed: ill-formed terms are refused -/

/-- Nine payload bytes (R75), on a dropped frame and on a dispatched one. -/
theorem test_wf_refuses_nine_lanes :
    (Instr.drop ⟨0x18FEF100, [0, 0, 0, 0, 0, 0, 0, 0, 0]⟩).wf = false ∧
    (Instr.dispatch ⟨0x18FEF100, [0, 0, 0, 0, 0, 0, 0, 0, 0]⟩).wf = false := by decide

/-- An identifier of another row (R84), once for every frame-selected constructor. -/
theorem test_wf_refuses_wrong_row :
    (Instr.bmpTach ⟨0x18BEBA00, []⟩).wf = false ∧ (Instr.bmpFuel ⟨0x18BEEF00, []⟩).wf = false ∧
    (Instr.bmpTherm ⟨0x18BEB000, []⟩).wf = false ∧ (Instr.dm1Lin ⟨0x18FECA50, []⟩).wf = false ∧
    (Instr.dm1Temp ⟨0x18FECA63, []⟩).wf = false ∧ (Instr.dm1Pos ⟨0x18FECA49, []⟩).wf = false ∧
    (Instr.sigLin ⟨0x18F03300, []⟩).wf = false ∧ (Instr.sigEtemp ⟨0x18FEEF00, []⟩).wf = false ∧
    (Instr.sigPos ⟨0x18FEE800, []⟩).wf = false ∧ (Instr.sigOri ⟨0x18FFFE00, []⟩).wf = false ∧
    (Instr.testAck ⟨0x18FFBC00, []⟩).wf = false ∧ (Instr.drop ⟨0x18FFBB00, []⟩).wf = false := by
  decide

/-- A term each check accepts. -/
theorem test_wf_accepts :
    (Instr.sigOri ⟨0x1DFFFFFF, [0, 2, 0]⟩).wf = true ∧
    (Instr.dispatch ⟨0x18FECA49, [0, 0, 0, 0, 0, 0, 0, 0]⟩).wf = true := by decide

/-! ## Decoding of words written out from the encodings -/

/-- A frame on the wires, lane 0 first. -/
def wires (id : Word) (len : BitVec 4) (a b c d e f g h : Byte) : Request :=
  .frame ⟨id, len, ⟨a, b, c, d, e, f, g, h⟩⟩

/-- Priority 6 is 0b110 in bits 28:26, PGN 0xBEB0 in bits 23:8, address 0x10 in bits 7:0 (R70). -/
theorem test_decode_bmpTach :
    decode (wires 0b00011000_10111110_10110000_00010000 8 1 0 2 0 0 0 0 0xFF) =
      .ok (.bmpTach ⟨0x18BEB010, [1, 0, 2, 0, 0, 0, 0, 0xFF]⟩) := by decide

theorem test_decode_bmpFuel :
    decode (wires 0b00011000_10111110_10111010_00010001 8 0 0xFF 0 0 5 0 0 9) =
      .ok (.bmpFuel ⟨0x18BEBA11, [0, 0xFF, 0, 0, 5, 0, 0, 9]⟩) := by decide

theorem test_decode_bmpTherm :
    decode (wires 0b00011000_10111110_11101111_00010010 7 0 0 0 0 0 0 1 0xAA) =
      .ok (.bmpTherm ⟨0x18BEEF12, [0, 0, 0, 0, 0, 0, 1]⟩) := by decide

theorem test_decode_dm1Lin :
    decode (wires 0b00011000_11111110_11001010_01001000 5 0 0 0 0 3 0 0 0) =
      .ok (.dm1Lin ⟨0x18FECA48, [0, 0, 0, 0, 3]⟩) := by decide

theorem test_decode_dm1Temp :
    decode (wires 0b00011000_11111110_11001010_01010000 5 1 2 3 4 5 6 7 8) =
      .ok (.dm1Temp ⟨0x18FECA50, [1, 2, 3, 4, 5]⟩) := by decide

theorem test_decode_dm1Pos :
    decode (wires 0b00011000_11111110_11001010_01100011 5 0 0 0 0 0xE5 0 0 0) =
      .ok (.dm1Pos ⟨0x18FECA63, [0, 0, 0, 0, 0xE5]⟩) := by decide

/-- Priority 3 is 0b011 in bits 28:26. -/
theorem test_decode_sigLin :
    decode (wires 0b00001100_11110000_00110010_01001000 2 0x04 0xD2 0 0 0 0 0 0) =
      .ok (.sigLin ⟨0x0CF03248, [0x04, 0xD2]⟩) := by decide

/-- Bits 31:29 set are ignored by selection (SEL10). -/
theorem test_decode_sigEtemp :
    decode (wires 0b11111000_11111110_11101110_01110111 1 0x46 0 0 0 0 0 0 0) =
      .ok (.sigEtemp ⟨0xF8FEEE77, [0x46]⟩) := by decide

theorem test_decode_sigPos :
    decode (wires 0b00011000_11111110_11101001_01100011 6 0x7F 0xFF 0x80 0 0xAA 0xBB 0 0) =
      .ok (.sigPos ⟨0x18FEE963, [0x7F, 0xFF, 0x80, 0, 0xAA, 0xBB]⟩) := by decide

/-- Data page bit 24 set is ignored by selection. -/
theorem test_decode_sigOri :
    decode (wires 0b00011101_11111111_11111111_11111111 3 0 2 0 0 0 0 0 0) =
      .ok (.sigOri ⟨0x1DFFFFFF, [0, 2, 0]⟩) := by decide

theorem test_decode_testAck :
    decode (wires 0b00011000_11111111_10111011_00000001 0 0 0 0 0 0 0 0 0) =
      .ok (.testAck ⟨0x18FFBB01, []⟩) := by decide

/-- An unknown DM1 address (SEL6) and a transmit-only PGN (SEL3) are dropped. -/
theorem test_decode_drop :
    decode (wires 0x18FECA49 1 7 0 0 0 0 0 0 0) = .ok (.drop ⟨0x18FECA49, [7]⟩) ∧
    decode (wires 0x18F03750 2 0x46 0xFF 0 0 0 0 0 0) = .ok (.drop ⟨0x18F03750, [0x46, 0xFF]⟩) := by
  decide

/-- Tags 0x0 and 0x1 (R86). -/
theorem test_decode_codec :
    decode (.command { tagPorts 0b0000 with id := 0xFFFFFFFF }) = .ok (.decodeId 0xFFFFFFFF) ∧
    decode (.command { tagPorts 0b0001 with pri := 3, edp := 1, dp := 0, pgn := 0xBEEF, sa := 0x21 })
      = .ok (.encodeId 3 1 0 0xBEEF 0x21) := by decide

/-- Tags 0x2 and 0x3. -/
theorem test_decode_dispatcher :
    decode (.command { tagPorts 0b0010 with frame := ⟨0x18FEEE00, 1, ⟨0x46, 9, 9, 9, 9, 9, 9, 9⟩⟩ })
      = .ok (.dispatch ⟨0x18FEEE00, [0x46]⟩) ∧
    decode (.command (tagPorts 0b0011)) = .ok .drain := by decide

/-- Tag 0x4 with each subsystem number (R21, D4). -/
theorem test_decode_ftReset :
    [0, 1, 2, 3, 4, 5].map (fun n => decode (.command { tagPorts 0b0100 with sub := n })) =
      [.ok (.ftReset (.bitmap .tachometer)), .ok (.ftReset (.bitmap .fuelGauge)),
       .ok (.ftReset (.bitmap .thermometer)), .ok (.ftReset (.dm1 .linear)),
       .ok (.ftReset (.dm1 .temperature)), .ok (.ftReset (.dm1 .position))] := by decide

/-- Tags 0x5, 0x6, 0x7. -/
theorem test_decode_commandEncoder :
    decode (.command { tagPorts 0b0101 with sel := 2 }) = .ok (.buildReset 2) ∧
    decode (.command { tagPorts 0b0110 with sel := 1, setpoint := 250 }) =
      .ok (.buildSetpoint 1 250) ∧
    decode (.command { tagPorts 0b0111 with current := 250, delta := 1 }) = .ok (.adjust 250 1) := by
  decide

/-- Tag 0x8 with each register number (R89). -/
theorem test_decode_read :
    [0, 1, 2, 3, 4, 5, 6, 7, 8, 9, 10, 11, 12, 13].map
      (fun n => decode (.command { tagPorts 0b1000 with reg := n })) =
      [.ok (.read (.fb .tachometer)), .ok (.read (.fb .fuelGauge)), .ok (.read (.fb .thermometer)),
       .ok (.read (.nf .tachometer)), .ok (.read (.nf .fuelGauge)), .ok (.read (.nf .thermometer)),
       .ok (.read (.fmi .linear)), .ok (.read (.fmi .temperature)), .ok (.read (.fmi .position)),
       .ok (.read .svLin), .ok (.read .svEtemp), .ok (.read .svPosX), .ok (.read .svPosY),
       .ok (.read .svOri)] := by decide

/-- The reserved encodings of R90, at the first and the last reserved value. -/
theorem test_decode_reserved :
    decode (wires 0x18FEEE00 9 0 0 0 0 0 0 0 0) = .error .reservedLength ∧
    decode (wires 0x18FEEE00 15 0 0 0 0 0 0 0 0) = .error .reservedLength ∧
    decode (.command (tagPorts 9)) = .error .reservedTag ∧
    decode (.command (tagPorts 15)) = .error .reservedTag ∧
    decode (.command { tagPorts 4 with sub := 6 }) = .error .reservedSubsystem ∧
    decode (.command { tagPorts 4 with sub := 7 }) = .error .reservedSubsystem ∧
    decode (.command { tagPorts 8 with reg := 14 }) = .error .reservedRegister ∧
    decode (.command { tagPorts 8 with reg := 15 }) = .error .reservedRegister := by decide

/-- The opcode table's own words: a match value of a FRAME row, a tag of a CMD row (log 13). -/
theorem test_decodeTableWord :
    decodeTableWord 32 0x00BEB000 = some (.bmpTach ⟨0x00BEB000, []⟩) ∧
    decodeTableWord 32 0x00FECA63 = some (.dm1Pos ⟨0x00FECA63, []⟩) ∧
    decodeTableWord 8 0x3 = some .drain ∧
    decodeTableWord 8 0x8 = some (.read (.fb .tachometer)) ∧
    decodeTableWord 8 0x9 = none := by decide

/-! ## One step of each instruction -/

/-- Does `i` in `s` answer a next state with the property `p`? -/
def nextHas (i : Instr) (s : State) (p : State → Bool) : Bool :=
  match exec i s with
  | .next t => p t
  | .fault _ => false
  | .refused _ => false

def resetWith (fb nf : BitmapBank) : State := { State.reset with fb := fb, nf := nf }

/-- BM6: bit 0 stays latched though its lane is now zero; a new bit is reported alone. -/
theorem test_bmpTach : nextHas (.bmpTach ⟨0x18BEB010, [0, 2, 0, 0, 0, 0, 0, 0]⟩)
    (resetWith ⟨0x81, 0x80, 0x80⟩ ⟨1, 0, 0⟩) (fun t =>
      t.fb == ⟨0x83, 0x80, 0x80⟩ && t.nf == ⟨2, 0, 0⟩ && t.out == [.newFault .tachometer 0x83 2]) =
    true := by decide

/-- BM9: seven lanes are malformed though lanes 0 to 6 are all there. -/
theorem test_bmpTach_short : nextHas (.bmpTach ⟨0x18BEB010, [1, 1, 1, 1, 1, 1, 1]⟩) State.reset
    (fun t => t.fb == ⟨0x80, 0x80, 0x80⟩ && t.out == [] && t.replies == [⟨.malformedPayload, .empty⟩]) =
    true := by decide

/-- BM11, the worked example of R143: lane 7 has no effect. -/
theorem test_bmpFuel : nextHas (.bmpFuel ⟨0x18BEBA11, [0, 0xFF, 0, 0, 5, 0, 0, 9]⟩) State.reset
    (fun t => t.fb == ⟨0x80, 0x92, 0x80⟩ && t.nf == ⟨0, 0x12, 0⟩ &&
      t.out == [.newFault .fuelGauge 0x92 0x12]) = true := by decide

/-- BM1: nothing raised, nothing notified, `NF` becomes 0. -/
theorem test_bmpFuel_quiet : nextHas (.bmpFuel ⟨0x18BEBA11, [0, 0, 0, 0, 0, 0, 0, 0]⟩)
    (resetWith ⟨0x80, 0x92, 0x80⟩ ⟨0, 0x12, 0⟩) (fun t =>
      t.fb == ⟨0x80, 0x92, 0x80⟩ && t.nf == ⟨0, 0, 0⟩ && t.out == []) = true := by decide

/-- The worked example of R144. -/
theorem test_bmpTherm : nextHas (.bmpTherm ⟨0x18BEEF12, [0, 0, 0, 0, 0, 0, 1, 0]⟩) State.reset
    (fun t => t.fb == ⟨0x80, 0x80, 0xC0⟩ && t.nf == ⟨0, 0, 0x40⟩ &&
      t.fmi == ⟨0, 0, 0⟩ && t.out == [.newFault .thermometer 0xC0 0x40]) = true := by decide

/-- BM4. -/
theorem test_bmpTherm_all : nextHas
    (.bmpTherm ⟨0x18BEEF12, [0xFF, 0xFF, 0xFF, 0xFF, 0xFF, 0xFF, 0xFF, 0xFF]⟩) State.reset
    (fun t => t.fb == ⟨0x80, 0x80, 0xFF⟩ && t.nf == ⟨0, 0, 0x7F⟩) = true := by decide

/-- FM7: overwritten, not OR'd. -/
theorem test_dm1Lin : nextHas (.dm1Lin ⟨0x18FECA48, [0xAA, 0xBB, 0xCC, 0xDD, 3, 0xEE, 0xFF, 0x11]⟩)
    { State.reset with fmi := ⟨31, 0, 0⟩ }
    (fun t => t.fmi == ⟨3, 0, 0⟩ && t.out == [.fmiChanged .linear 3]) = true := by decide

/-- SEL15: four lanes are malformed. -/
theorem test_dm1Lin_short : nextHas (.dm1Lin ⟨0x18FECA48, [0, 0, 0, 0]⟩) State.reset
    (fun t => t.fmi == ⟨0, 0, 0⟩ && t.out == [] && t.replies == [⟨.malformedPayload, .empty⟩]) =
    true := by decide

/-- FM2. -/
theorem test_dm1Temp : nextHas (.dm1Temp ⟨0x18FECA50, [0xFF, 0xFF, 0xFF, 0xFF, 0xFF]⟩) State.reset
    (fun t => t.fmi == ⟨0, 31, 0⟩ && t.out == [.fmiChanged .temperature 31]) = true := by decide

/-- FM3. -/
theorem test_dm1Pos : nextHas (.dm1Pos ⟨0x18FECA63, [0xFF, 0xFF, 0xFF, 0xFF, 0xE5]⟩) State.reset
    (fun t => t.fmi == ⟨0, 0, 5⟩ && t.out == [.fmiChanged .position 5]) = true := by decide

/-- SG2: -1234. -/
theorem test_sigLin : nextHas (.sigLin ⟨0x18F03200, [0xFB, 0x2E]⟩) State.reset
    (fun t => t.svLin == ⟨BitVec.ofInt 16 (-1234), true⟩ &&
      t.out == [.signalChanged (.linearDisplacement (BitVec.ofInt 16 (-1234)))]) = true := by decide

/-- SG4: the physical value of 15 is 3/2. -/
theorem test_sigLin_physical : SignalKind.linearDisplacement.physical 15 = mkRat 3 2 := by decide

/-- SG5: -40. -/
theorem test_sigEtemp : nextHas (.sigEtemp ⟨0x18FEEE00, [0]⟩) State.reset
    (fun t => t.svEtemp == ⟨BitVec.ofInt 16 (-40), true⟩ && t.svLin == ⟨0, false⟩) = true := by decide

/-- SG7: 215, the byte is unsigned. -/
theorem test_sigEtemp_top : nextHas (.sigEtemp ⟨0x18FEEE00, [0xFF]⟩) State.reset
    (fun t => t.out == [.signalChanged (.engineTemperature 215)]) = true := by decide

/-- SG9. -/
theorem test_sigPos : nextHas (.sigPos ⟨0x18FEE963, [0x7F, 0xFF, 0x80, 0, 0xAA, 0xBB]⟩) State.reset
    (fun t => t.svPos == ⟨32767, BitVec.ofInt 16 (-32768), true⟩ &&
      t.out == [.signalChanged (.vehiclePosition 32767 (BitVec.ofInt 16 (-32768)))]) = true := by
  decide

/-- SEL13: three lanes write neither coordinate. -/
theorem test_sigPos_short : nextHas (.sigPos ⟨0x18FEE900, [0, 0x64, 0xFF]⟩) State.reset
    (fun t => t.svPos == ⟨0, 0, false⟩ && t.out == []) = true := by decide

/-- S9: 0x0200 is 512, physical value 4; lane 0 is not part of the field. -/
theorem test_sigOri : nextHas (.sigOri ⟨0x18FFFF63, [0xAA, 2, 0]⟩) State.reset
    (fun t => t.svOri == ⟨512, true⟩ &&
      SignalKind.vehicleOrientation.physical t.svOri.num == 4) = true := by decide

/-- SEL17 and SEL18. -/
theorem test_testAck : exec (.testAck ⟨0x18FFBB01, []⟩) State.reset = .next { State.reset with
    out := [.frameOut Config.ackId Config.ackData], replies := [⟨.ok, .empty⟩] } := rfl

/-- SEL2. -/
theorem test_drop : exec (.drop ⟨0x18FEF100, []⟩) State.reset =
    .next { State.reset with replies := [⟨.ok, .empty⟩] } := rfl

/-- DE8. -/
theorem test_decodeId : nextHas (.decodeId 0x0EBEEF21) State.reset
    (fun t => t.replies == [⟨.ok, .fields 3 1 0 0xBE 0xEF 0x21 0xBEEF⟩]) = true := by decide

/-- DE3: bits 31:29 reach no field. -/
theorem test_decodeId_top : nextHas (.decodeId 0xF8FECA48) State.reset
    (fun t => t.replies == [⟨.ok, .fields 6 0 0 0xFE 0xCA 0x48 0xFECA⟩]) = true := by decide

/-- EN3. -/
theorem test_encodeId : nextHas (.encodeId 3 1 0 0xBEEF 0x21) State.reset
    (fun t => t.replies == [⟨.ok, .ident 0x0EBEEF21⟩]) = true := by decide

/-- EN13, EN14, EN15: each check alone. -/
theorem test_encodeId_invalid : [(8, 0, 0), (6, 0x10000, 0), (6, 0, 0x100)].all
    (fun (p : Word × Word × Word) => nextHas (.encodeId p.1 0 0 p.2.1 p.2.2) State.reset
      (fun t => t.replies == [⟨.invalidField, .empty⟩])) = true := by decide

/-- SEL8: the data page is ignored. -/
theorem test_dispatch : nextHas (.dispatch ⟨0x19FEEE00, [0x46]⟩) State.reset
    (fun t => t.svEtemp == ⟨30, true⟩ && t.replies == [⟨.ok, .empty⟩]) = true := by decide

/-- SEL7: selection comes before the length check. -/
theorem test_dispatch_drop : nextHas (.dispatch ⟨0x18FECA49, [0]⟩) State.reset
    (fun t => t == { State.reset with replies := [⟨.ok, .empty⟩] }) = true := by decide

/-- The middle of program P2: a drop, a malformed frame reported, a frame after it still handled. -/
theorem test_drain : nextHas .drain { State.reset with rxq :=
      [⟨0x18FECA49, [0]⟩, ⟨0x18BEBA11, [1, 1, 1, 1, 1, 1, 1]⟩, ⟨0x18FECA63, [0, 0, 0, 0, 0xE5]⟩] }
    (fun t => t.rxq == [] && t.fb == ⟨0x80, 0x80, 0x80⟩ && t.fmi == ⟨0, 0, 5⟩ &&
      t.out == [.frameError .malformedPayload 0x18BEBA11, .fmiChanged .position 5] &&
      t.replies == [⟨.ok, .empty⟩]) = true := by decide

/-- FR1: `NF` is left alone. -/
theorem test_ftReset : nextHas (.ftReset (.bitmap .tachometer))
    (resetWith ⟨0x85, 0x92, 0xC0⟩ ⟨4, 0, 0⟩)
    (fun t => t.fb == ⟨0x80, 0x92, 0xC0⟩ && t.nf == ⟨4, 0, 0⟩ && t.out == []) = true := by decide

/-- FR4: an FMI is not cleared. -/
theorem test_ftReset_dm1 : nextHas (.ftReset (.dm1 .linear)) { State.reset with fmi := ⟨3, 0, 0⟩ }
    (fun t => t.fmi == ⟨3, 0, 0⟩ && t.replies == [⟨.ok, .empty⟩]) = true := by decide

/-- BU2: selector 2 is Position. -/
theorem test_buildReset : nextHas (.buildReset 2) State.reset
    (fun t => t.out == [.frameOut 0x18FECA63 ⟨0, 0, 0, 0, 0, 0, 0, 0⟩]) = true := by decide

/-- BU4. -/
theorem test_buildReset_invalid : nextHas (.buildReset 4) State.reset
    (fun t => t.out == [] && t.replies == [⟨.invalidField, .empty⟩]) = true := by decide

/-- BU6. -/
theorem test_buildSetpoint_tread : nextHas (.buildSetpoint 1 250) State.reset
    (fun t => t.out == [.frameOut 0x18FFF848 ⟨0xFF, 0xFF, 0xFF, 0xFA, 0xFF, 0xFF, 0xFF, 0xFF⟩]) =
    true := by decide

/-- BU7. -/
theorem test_buildSetpoint_heater : nextHas (.buildSetpoint 2 70) State.reset
    (fun t => t.out == [.frameOut 0x18F03750 ⟨0x46, 0xFF, 0xFF, 0xFF, 0xFF, 0xFF, 0xFF, 0xFF⟩]) =
    true := by decide

/-- S10, S11, S12, AD2, AD3, AD9, AD13, AD14. -/
theorem test_adjust : [(250, 1, 0), (250, 5, 250), (10, 1, 11), (250, 2, 252), (253, 1, 254),
    (0, 255, 250), (200, 100, 44), (255, 252, 0)].all (fun (p : Byte × Byte × Byte) =>
      nextHas (.adjust p.1 p.2.1) State.reset (fun t => t.replies == [⟨.ok, .byte p.2.2⟩])) =
    true := by decide

/-- RD1 and RD3. -/
theorem test_read_reset :
    nextHas (.read (.fb .fuelGauge)) State.reset (fun t => t.replies == [⟨.ok, .byte 0x80⟩]) = true ∧
    nextHas (.read .svOri) State.reset (fun t => t.replies == [⟨.noValue, .empty⟩]) = true := by
  decide

/-- RD4: only the position mark was set. -/
theorem test_read_position :
    nextHas (.read .svPosY) { State.reset with svPos := ⟨100, BitVec.ofInt 16 (-100), true⟩ }
      (fun t => t.replies == [⟨.ok, .half (BitVec.ofInt 16 (-100))⟩]) = true ∧
    nextHas (.read .svLin) { State.reset with svPos := ⟨100, BitVec.ofInt 16 (-100), true⟩ }
      (fun t => t.replies == [⟨.noValue, .empty⟩]) = true := by decide

/-- The codes of R221 and the kind numbers of R33. -/
theorem test_numbers : [Status.ok, .invalidField, .malformedPayload, .noValue].map Status.code =
      [0, 1, 2, 3] ∧
    [SignalKind.linearDisplacement, .engineTemperature, .vehiclePosition, .vehicleOrientation].map
      SignalKind.number = [0, 1, 2, 3] := by decide

/-- The host's moves: PUSH keeps the frame unexamined, an idle block stutters, hardware reset. -/
theorem test_moves :
    step { State.reset with moves := [.push ⟨0x18FEEE00, 1, ⟨0x46, 9, 9, 9, 9, 9, 9, 9⟩⟩] } =
      .next { State.reset with rxq := [⟨0x18FEEE00, [0x46]⟩] } ∧
    step State.reset = .next State.reset ∧
    step { State.reset with fmi := ⟨3, 0, 0⟩, moves := [.reset] } = .next State.reset :=
  ⟨rfl, rfl, rfl⟩

/-- The pseudo-operations of R92 are the moves they expand to. -/
theorem test_pseudo :
    core.run 1 { State.reset with moves := setpointTread 0 } = .next { State.reset with
      out := [.frameOut 0x18FFF848 ⟨0xFF, 0xFF, 0xFF, 0, 0xFF, 0xFF, 0xFF, 0xFF⟩]
      replies := [⟨.ok, .frame 0x18FFF848 ⟨0xFF, 0xFF, 0xFF, 0, 0xFF, 0xFF, 0xFF, 0xFF⟩⟩] } ∧
    core.run 1 { State.reset with moves := txId 0xFFF0 0 } = .next { State.reset with
      replies := [⟨.ok, .ident 0x18FFF000⟩] } := ⟨rfl, rfl⟩

/-! ## Witnesses: the hypotheses of the obligations are met, at the edges of their clauses -/

def tachFrame : Frame := ⟨0x18BEB010, [1, 0, 0, 0, 0, 0, 0, 0]⟩
def tachShort : Frame := ⟨0x18BEB010, [1, 1, 1, 1, 1, 1, 1]⟩
def dm1Frame : Frame := ⟨0x18FECA48, [0, 0, 0, 0, 3]⟩
def droppedFrame : Frame := ⟨0x18FEF100, [1, 2]⟩

/-- `reset` with host moves to come. -/
def facing (m : List HostMove) : State := { State.reset with moves := m }

/-- `reset` with frames queued. -/
def queued (q : List Frame) : State := { State.reset with rxq := q }

theorem facing_inv (m : List HostMove) : (facing m).Inv where
  fbSentinel b := by cases b <;> exact (by decide : (0x80 : Byte).getLsbD 7 = true)
  nfNoSentinel b := by cases b <;> exact (by decide : (0 : Byte).getLsbD 7 = false)
  fmiCode d := by cases d <;> exact (by decide : (0 : Byte).toNat ≤ 31)
  etempRange h := nomatch h
  rxqLengths f h := nomatch h
  outLegal e h := nomatch h

theorem witness_StepKeepsTheLegalValues :
    (facing [.request (.frame tachFrame.raw)]).Inv ∧
    ∃ t, step (facing [.request (.frame tachFrame.raw)]) = .next t ∧ t.fb.get .tachometer = 0x81 :=
  ⟨facing_inv _, _, rfl, rfl⟩

theorem witness_HardwareResetRestoresResetState :
    ({ State.reset with fmi := ⟨3, 0, 0⟩, moves := [.reset] } : State).moves = .reset :: [] := rfl

/-- Eight lanes, no lane, and operands at the top of their ports. -/
theorem witness_DecodeInvertsEncode : (Instr.bmpTach tachFrame).wf = true ∧
    (Instr.testAck ⟨0xFFFFBBFF, []⟩).wf = true ∧
    (Instr.encodeId 0xFFFFFFFF 1 1 0xFFFFFFFF 0xFFFFFFFF).wf = true := by decide

theorem witness_DecodedInstructionsAreWellFormed :
    decode (.frame tachFrame.raw) = .ok (.bmpTach tachFrame) := by decide

theorem witness_SelectionIsTheMaskTable :
    (⟨.dm1Lin, 0x00FFFFFF, 0x00FECA48⟩ : FrameRow) ∈ frameTable ∧
    (⟨.dm1Lin, 0x00FFFFFF, 0x00FECA48⟩ : FrameRow).hits 0x18FECA48 = true := by decide

theorem witness_SelectionIgnoresTheOtherFields :
    (0x18BEB010 : Word).toNat / 2 ^ 8 % 2 ^ 16 ≠ 0xFECA := by decide

/-- Every clause at its first reserved value. -/
theorem witness_ReservedEncodingsAreRefusedByName :
    let long : RawFrame := ⟨0x18FEEE00, 9, ⟨0, 0, 0, 0, 0, 0, 0, 0⟩⟩
    step (facing [.push long]) = .refused .reservedLength ∧
    step (facing [.request (.frame long)]) = .refused .reservedLength ∧
    step (facing [.request (.command (tagPorts 9))]) = .refused .reservedTag ∧
    step (facing [.request (.command { tagPorts 2 with frame := long })]) =
      .refused .reservedLength ∧
    step (facing [.request (.command { tagPorts 4 with sub := 6 })]) = .refused .reservedSubsystem ∧
    step (facing [.request (.command { tagPorts 8 with reg := 14 })]) = .refused .reservedRegister :=
  ⟨rfl, rfl, rfl, rfl, rfl, rfl⟩

/-- A decoded request is waiting, and the step answers. -/
theorem witness_StepRunsTheDecodedInstruction :
    (facing [.request (encode (.dispatch dm1Frame))]).moves =
      .request (encode (.dispatch dm1Frame)) :: [] ∧
    decode (encode (.dispatch dm1Frame)) = .ok (.dispatch dm1Frame) := by decide

theorem witness_FetchedTableWordRunsNext : decodeTableWord 32 0x00FFBB00 =
    some (.testAck ⟨0x00FFBB00, []⟩) := by decide

/-- Both ends of the length. -/
theorem witness_PushAppendsTheFrame :
    step (facing [.push ⟨0x18FEEE00, 0, ⟨1, 2, 3, 4, 5, 6, 7, 8⟩⟩]) =
      .next (queued [⟨0x18FEEE00, []⟩]) ∧
    step (facing [.push ⟨0x18FEEE00, 8, ⟨1, 2, 3, 4, 5, 6, 7, 8⟩⟩]) =
      .next (queued [⟨0x18FEEE00, [1, 2, 3, 4, 5, 6, 7, 8]⟩]) := ⟨rfl, rfl⟩

/-- The last admitted value of every clause of `admits`. -/
theorem witness_AdmittedRunsComplete :
    ∀ m ∈ (facing [.push ⟨0, 8, ⟨0, 0, 0, 0, 0, 0, 0, 0⟩⟩, .reset,
      .request (.frame ⟨0, 8, ⟨0, 0, 0, 0, 0, 0, 0, 0⟩⟩),
      .request (.command { tagPorts 2 with frame := ⟨0, 8, ⟨0, 0, 0, 0, 0, 0, 0, 0⟩⟩ }),
      .request (.command { tagPorts 4 with sub := 5 }),
      .request (.command { tagPorts 8 with reg := 13 })]).moves, admits m = true := by decide

/-- `exec` answers a next state in which the handler's registers and `OUT` have changed. -/
theorem witness_OnlyTheOwnOperationsWriteARegister :
    nextHas .drain (queued [tachFrame, dm1Frame]) (fun t =>
      t.fb.get .tachometer != 0x80 && t.nf.get .tachometer != 0 && t.fmi.get .linear != 0 &&
        t.rxq != [tachFrame, dm1Frame]) = true := by decide

theorem witness_OutputStreamOnlyGrows :
    nextHas .drain (queued [tachFrame, dm1Frame]) (fun t =>
      t.out == [.newFault .tachometer 0x81 1, .fmiChanged .linear 3]) = true := by decide

/-- Each of the four statuses is returned by some instruction. -/
theorem witness_EveryOperationReturnsAnAllowedStatus :
    [(Instr.drain, Status.ok), (.buildReset 0, .invalidField),
     (.dispatch tachShort, .malformedPayload), (.read .svLin, .noValue)].all
      (fun p => nextHas p.1 State.reset (fun t => t.replies.map (·.status) == [p.2])) = true := by
  decide

theorem witness_ErrorsLeaveNoTrace : ∃ t r, exec (.dispatch tachShort) State.reset = .next t ∧
    t.replies = State.reset.replies ++ [r] ∧ r.status ≠ .ok :=
  ⟨_, ⟨.malformedPayload, .empty⟩, rfl, rfl, by decide⟩

/-- A bit is latched, the payload does not raise it, and another subsystem is reset. -/
theorem witness_FaultBitsStayLatched :
    nextHas (.ftReset (.bitmap .fuelGauge)) (resetWith ⟨0x81, 0x92, 0x80⟩ ⟨0, 0, 0⟩)
      (fun t => t.fb == ⟨0x81, 0x80, 0x80⟩) = true := by decide

theorem witness_ValidMarksAreNeverCleared : ∃ t,
    exec (.dispatch tachFrame) { State.reset with svLin := ⟨1, true⟩ } = .next t ∧
    ({ State.reset with svLin := ⟨1, true⟩ } : State).svLin.valid = true := ⟨_, rfl, rfl⟩

/-- Any request but hardware reset, with a value to forget. -/
theorem witness_OnlyHardwareResetForgets : ∃ t,
    step (facing [.request (.frame dm1Frame.raw)]) = .next t ∧
    (facing [.request (.frame dm1Frame.raw)]).moves.head? ≠ some .reset ∧
    t.fmi.get .linear ≠ (facing [.request (.frame dm1Frame.raw)]).fmi.get .linear :=
  ⟨_, rfl, by decide, by decide⟩

theorem witness_NewFaultsStayInsideUntilReset : ∃ t,
    exec (.bmpTach tachFrame) State.reset = .next t ∧
    (∀ b, Instr.bmpTach tachFrame ≠ .ftReset (.bitmap b)) ∧ State.reset.NewFaultsInside :=
  ⟨_, rfl, nofun, fun b => by cases b <;> decide⟩

/-- The largest valid operands. -/
theorem witness_DecodeAfterEncodeReproducesTheFields :
    (7 : Word).toNat ≤ 7 ∧ (0xFFFF : Word).toNat ≤ 0xFFFF ∧ (0xFF : Word).toNat ≤ 0xFF := by decide

theorem witness_DecodeReturnsTheFields : (tagPorts 0x0).op = 0x0 := rfl

theorem witness_EncodeIsInjectiveOntoTwentyNineBits :
    packIdent 7 1 1 0xFFFF 0xFF = some 0x1FFFFFFF ∧ packIdent 0 0 0 0 0 = some 0 ∧
    (0x1FFFFFFF : Word).toNat < 0x20000000 := by decide

/-- A frame of exactly the minimum, one lane less. -/
theorem witness_DispatchRunsTheSelectedOperation :
    minlen (select tachFrame.id) ≤ tachFrame.data.length ∧
    tachShort.data.length < minlen (select tachShort.id) := by decide

/-- Each minimum less one. -/
theorem witness_ShortFramesAreMalformed :
    [([1, 2, 3, 4, 5, 6, 7] : List Byte).length, ([1, 2, 3, 4] : List Byte).length,
      ([1, 2, 3] : List Byte).length, ([1, 2] : List Byte).length, ([1] : List Byte).length,
      ([] : List Byte).length] = [8 - 1, 5 - 1, 4 - 1, 3 - 1, 2 - 1, 1 - 1] := by decide

/-- The two frames differ in a lane the handler does not read, and in their identifiers. -/
theorem witness_HandlersReadOnlyTheirLanes :
    minlen .sigOri ≤ ([0xAA, 2, 0] : List Byte).length ∧
    minlen .sigOri ≤ ([0xBB, 2, 0, 9] : List Byte).length ∧
    ∀ i ∈ lanesRead .sigOri, ([0xAA, 2, 0] : List Byte)[i]? = ([0xBB, 2, 0, 9] : List Byte)[i]? := by
  decide

theorem witness_DroppedFramesHaveNoEffect :
    (queued [droppedFrame, dm1Frame]).rxq = droppedFrame :: [dm1Frame] ∧
    select droppedFrame.id = .drop := by decide

/-- An empty queue, a queue whose head is handled, a queue whose head is malformed. -/
theorem witness_DrainDispatchesTheQueueInOrder : (queued []).rxq = [] ∧
    (queued [tachFrame, dm1Frame]).rxq = tachFrame :: [dm1Frame] ∧
    (queued [tachShort, dm1Frame]).rxq = tachShort :: [dm1Frame] := ⟨rfl, rfl, rfl⟩

theorem witness_DrainSplits : ∃ t u, (queued [tachFrame, dm1Frame]).rxq = [tachFrame] ++ [dm1Frame] ∧
    exec .drain { queued [tachFrame, dm1Frame] with rxq := [tachFrame] } = .next t ∧
    exec .drain { t with rxq := [dm1Frame] } = .next u := ⟨_, _, rfl, rfl, rfl⟩

/-- A frame that is handled, and a malformed one. -/
theorem witness_FeedActsAsDispatch : ∀ f ∈ [tachFrame, tachShort], f.raw.frame = .ok f ∧
    (facing (feedMoves f.raw)).rxq = [] ∧
    (∃ u v w, step (facing (feedMoves f.raw)) = .next u ∧ step u = .next v ∧
      exec (.dispatch f) (facing (feedMoves f.raw)) = .next w) := by
  intro f hf
  simp only [List.mem_cons, List.not_mem_nil, or_false] at hf
  rcases hf with rfl | rfl <;> exact ⟨rfl, rfl, _, _, _, rfl, rfl, rfl⟩

/-- Seven lanes and eight lanes; a payload repeated; two payloads in either order. -/
theorem witness_BitmapUpdateLatchesAndDetects : tachShort.data.length < 8 ∧
    8 ≤ tachFrame.data.length := by decide

theorem witness_RepeatedPayloadRaisesNothing : 8 ≤ tachFrame.data.length ∧
    ∃ t, exec (bitmapInstr .tachometer tachFrame) State.reset = .next t := ⟨by decide, _, rfl⟩

theorem witness_BitmapUpdatesCommute : ∃ t t' u u',
    exec (bitmapInstr .tachometer tachFrame) State.reset = .next t ∧
    exec (bitmapInstr .tachometer tachShort) t = .next t' ∧
    exec (bitmapInstr .tachometer tachShort) State.reset = .next u ∧
    exec (bitmapInstr .tachometer tachFrame) u = .next u' := ⟨_, _, _, _, rfl, rfl, rfl, rfl⟩

theorem witness_Dm1UpdateOverwritesAndNotifies : ([0, 0, 0, 0] : List Byte).length < 5 ∧
    5 ≤ dm1Frame.data.length := by decide

theorem witness_FtResetLeavesTheFmiCodes : ∃ t,
    exec (.ftReset (.dm1 .linear)) { State.reset with fmi := ⟨3, 0, 0⟩ } = .next t ∧
    dm1Handler .linear ∉ handlersRun State.reset (.ftReset (.dm1 .linear)) := ⟨_, rfl, by decide⟩

/-- A payload with an indicator raised, and the all-zero one. -/
theorem witness_FtResetRearmsTheDetector :
    ∀ p ∈ [tachFrame.data, [0, 0, 0, 0, 0, 0, 0, 0]], 8 ≤ p.length ∧
    ∃ t u, exec (.ftReset (.bitmap .tachometer)) (resetWith ⟨0x81, 0x80, 0x80⟩ ⟨1, 0, 0⟩) = .next t ∧
      exec (bitmapInstr .tachometer ⟨0x18BEB010, p⟩) t = .next u := by
  intro p hp
  simp only [List.mem_cons, List.not_mem_nil, or_false] at hp
  rcases hp with rfl | rfl <;> exact ⟨by decide, _, _, rfl, rfl⟩

/-- The four signals, one lane less than the minimum and the minimum. -/
theorem witness_LinearDisplacementIsLanesZeroAndOne :
    ([4] : List Byte).length < 2 ∧ 2 ≤ ([4, 0xD2] : List Byte).length := by decide

theorem witness_EngineTemperatureIsLaneZeroMinusForty :
    ([] : List Byte).length < 1 ∧ 1 ≤ ([70] : List Byte).length := by decide

theorem witness_VehiclePositionIsLanesZeroToThree :
    ([0, 0x64, 0xFF] : List Byte).length < 4 ∧ 4 ≤ ([0, 0x64, 0xFF, 0x9C] : List Byte).length := by
  decide

theorem witness_VehicleOrientationIsLanesOneAndTwo :
    ([0, 2] : List Byte).length < 3 ∧ 3 ≤ ([0, 2, 0] : List Byte).length := by decide

/-- The last lane pair is read, and one past it is not. -/
theorem witness_PayloadReadsAreBoundedAndBigEndian : memRead2 [0, 0x04, 0xD2] 1 = some 1234 ∧
    memRead2 [0, 0x04, 0xD2] 2 = none ∧ memRead1 [0, 0x04, 0xD2] 3 = none := by decide

/-- The selectors on either side of each clause. -/
theorem witness_UndefinedSelectorsAreInvalidField :
    ((0 : Byte) = 0 ∨ 4 ≤ (0 : Byte).toNat) ∧ ((4 : Byte) = 0 ∨ 4 ≤ (4 : Byte).toNat) ∧
    ¬ ((3 : Byte) = 0 ∨ 4 ≤ (3 : Byte).toNat) ∧ ((3 : Byte) = 0 ∨ 3 ≤ (3 : Byte).toNat) ∧
    ¬ ((2 : Byte) = 0 ∨ 3 ≤ (2 : Byte).toNat) := by decide

theorem witness_BuildResetSendsItsThreeFrames :
    ((1 : Byte) = 1 ∧ (0x18FECA48 : Word) = 0x18FECA48) ∧
    ((2 : Byte) = 2 ∧ (0x18FECA63 : Word) = 0x18FECA63) ∧
    ((3 : Byte) = 3 ∧ (0x18FECA50 : Word) = 0x18FECA50) := by decide

/-- Each selector sends the frame the hypotheses name. -/
theorem witness_EchoedResetFrameClearsItsFmi :
    ∀ p ∈ [((1 : Byte), (0x18FECA48 : Word)), (2, 0x18FECA63), (3, 0x18FECA50)],
      ∃ t, exec (.buildReset p.1) State.reset = .next t ∧
        t.out = State.reset.out ++ [.frameOut p.2 ⟨0, 0, 0, 0, 0, 0, 0, 0⟩] := by
  intro p hp
  simp only [List.mem_cons, List.not_mem_nil, or_false] at hp
  rcases hp with rfl | rfl | rfl <;> exact ⟨_, rfl, rfl⟩

end Sys2Proof.Machine
end

section
/-! SUPPORT. The identifier codec (40_identifier_codec.md): what `ENCODE` and `DECODE` answer, and the
fields of a packed word. -/

namespace Sys2Proof.Machine

section Codec

variable {pri pgn sa id : Word} {edp dp : BitVec 1}

theorem exec_encodeId_of_some (s : State) (h : packIdent pri edp dp pgn sa = some id) :
    exec (.encodeId pri edp dp pgn sa) s = .next (s.answer ⟨.ok, .ident id⟩) := by
  simp only [exec, execEncodeId, h, succeed]

theorem exec_encodeId_of_none (s : State) (h : packIdent pri edp dp pgn sa = none) :
    exec (.encodeId pri edp dp pgn sa) s = .next (s.answer ⟨.invalidField, .empty⟩) := by
  simp only [exec, execEncodeId, h, raise]

theorem exec_decodeId (id : Word) (s : State) :
    exec (.decodeId id) s = .next (s.answer ⟨.ok, identFields id⟩) := rfl

/-- The range check refuses exactly the operands that exceed their width (R102). -/
theorem packIdent_eq_none_iff : packIdent pri edp dp pgn sa = none ↔
    pri.toNat > 7 ∨ pgn.toNat > 0xFFFF ∨ sa.toNat > 0xFF := by
  rw [← Option.not_isSome_iff_eq_none, packIdent_isSome]
  omega

/-- A packed word is the sum of the shifted operands (R101). -/
theorem eq_ofNat_of_packIdent (h : packIdent pri edp dp pgn sa = some id) :
    id = BitVec.ofNat 32 (pri.toNat * 2 ^ 26 + edp.toNat * 2 ^ 25 + dp.toNat * 2 ^ 24 +
      pgn.toNat * 2 ^ 8 + sa.toNat) := by
  obtain ⟨-, -, -, hsum⟩ := packIdent_eq_some h
  rw [← hsum, BitVec.ofNat_toNat, BitVec.setWidth_eq]

/-- The fields of a packed word are the operands it was packed from: each term of the sum lies below
the place of the next, so quotient and remainder pick it out (R108). -/
theorem identFields_of_packIdent (h : packIdent pri edp dp pgn sa = some id) :
    identFields id = .fields (BitVec.ofNat 3 pri.toNat) edp dp (BitVec.ofNat 8 (pgn.toNat / 2 ^ 8))
      (BitVec.ofNat 8 pgn.toNat) (BitVec.ofNat 8 sa.toNat) (BitVec.ofNat 16 pgn.toNat) := by
  obtain ⟨hpri, hpgn, hsa, hsum⟩ := packIdent_eq_some h
  have hedp := edp.isLt
  have hdp := dp.isLt
  simp only [identFields, Result.fields.injEq, ← BitVec.toNat_inj, BitVec.toNat_ofNat, idPri_toNat,
    idEdp_toNat, idDp_toNat, idPf_toNat, idPs_toNat, idSa_toNat, idPgn_toNat, hsum]
  refine ⟨?_, ?_, ?_, ?_, ?_, ?_, ?_⟩ <;> omega

end Codec

/-- Settles O28: by the two answers of `packIdent`. -/
theorem encodeChecksThenPacks : Obligations.EncodeChecksThenPacks := by
  intro pri edp dp pgn sa s
  cases h : packIdent pri edp dp pgn sa with
  | none => rw [if_pos (packIdent_eq_none_iff.mp h), exec_encodeId_of_none s h, State.answer]
  | some id =>
    have hfits := packIdent_eq_none_iff.not.mp (Option.ne_none_iff_exists'.mpr ⟨id, h⟩)
    rw [if_neg hfits, exec_encodeId_of_some s h, State.answer, ← eq_ofNat_of_packIdent h]

/-- Settles O29: operands within their widths are packed, and the packed word has their fields. -/
theorem decodeAfterEncodeReproducesTheFields :
    Obligations.DecodeAfterEncodeReproducesTheFields := by
  intro pri edp dp pgn sa s hpri hpgn hsa
  obtain ⟨id, h⟩ := Option.isSome_iff_exists.mp
    (packIdent_isSome (edp := edp) (dp := dp) |>.mpr ⟨hpri, hpgn, hsa⟩)
  refine ⟨id, s.answer ⟨.ok, .ident id⟩, exec_encodeId_of_some s h, rfl, ?_⟩
  rw [exec_decodeId, identFields_of_packIdent h, State.answer]

end Sys2Proof.Machine
end

section
/-! SUPPORT. The PGN dispatcher (41_pgn_dispatch.md): what a frame that selects `DROP` leaves behind. -/

namespace Sys2Proof.Machine

section Dispatcher

variable {f : Frame} {q : List Frame} {s t : State}

theorem handle_of_select_drop (s : State) (hsel : select f.id = .drop) : handle f s = .done s := by
  rw [handle_eq_handleOf, hsel]
  rfl

/-- `DRAIN` whose first frame is handled without error goes on from the handler's state, whose queue
is still the rest (R123). -/
theorem exec_drain_cons_of_done (hq : s.rxq = f :: q)
    (hf : handle f (s.setRxq q) = .done t) (ht : t.rxq = q) :
    exec .drain s = exec .drain t := by
  rw [exec_drain, exec_drain, hq, ht, drainQueue, hf]

theorem exec_drop (f : Frame) (s : State) :
    exec (.drop f) s = .next (s.answer ⟨.ok, .empty⟩) := rfl

theorem exec_dispatch_of_select_drop (s : State) (hsel : select f.id = .drop) :
    exec (.dispatch f) s = exec (.drop f) s := by
  rw [exec_dispatch, hsel]
  exact (exec_instr .drop f s).symm

end Dispatcher

/-- Settles O35: `DISPATCH` of a dropped frame is `DROP`, which only answers; `DRAIN` goes on from the
state in which the dropped frame has only left the queue. -/
theorem droppedFramesHaveNoEffect : Obligations.DroppedFramesHaveNoEffect := by
  refine ⟨fun f s => ⟨exec_drop f s, fun hsel => ?_⟩, fun f q s hq hsel => ?_⟩
  · exact (exec_dispatch_of_select_drop s hsel).trans (exec_drop f s)
  · exact exec_drain_cons_of_done hq (handle_of_select_drop _ hsel) (State.setRxq_rxq s q)

end Sys2Proof.Machine
end

section
/-! SUPPORT. The fault tracker (42_fault_tracker.md): what a DM1 frame does for the host, and what can
change an FMI. -/

namespace Sys2Proof.Machine

section FaultTracker

variable {d : Dm1Sub} {f : Frame} {i : Instr} {hs : List Handler} {s t : State}

/-- The three DM1 instructions are one operation, told apart by the subsystem (R148 to R150). -/
theorem exec_dm1Instr (d : Dm1Sub) (f : Frame) (s : State) :
    exec (dm1Instr d f) s = returnToHost s (guardLength 5 f (updateDm1 d f s)) := by
  cases d <;> rfl

theorem exec_dm1Instr_of_short (hshort : f.data.length < 5) :
    exec (dm1Instr d f) s = .next (s.answer ⟨.malformedPayload, .empty⟩) := by
  rw [exec_dm1Instr, guardLength_short hshort, returnToHost, raise]

theorem updateDm1_of_lt (hlong : 4 < f.data.length) :
    updateDm1 d f s = .done ((s.setFmi d (BitVec.ofNat 8 (f.data[4].toNat % 32))).emit
      (.fmiChanged d (BitVec.ofNat 8 (f.data[4].toNat % 32)))) := by
  simp only [updateDm1, fmiOperand_eq_some hlong]

theorem exec_dm1Instr_of_long (hlong : 4 < f.data.length) :
    exec (dm1Instr d f) s = .next (((s.setFmi d (BitVec.ofNat 8 (f.data[4].toNat % 32))).emit
      (.fmiChanged d (BitVec.ofNat 8 (f.data[4].toNat % 32)))).answer ⟨.ok, .empty⟩) := by
  rw [exec_dm1Instr, guardLength_long hlong, updateDm1_of_lt hlong, returnToHost, succeed]

theorem exec_ftReset_dm1 (d : Dm1Sub) (s : State) :
    exec (.ftReset (.dm1 d)) s = .next (s.answer ⟨.ok, .empty⟩) := rfl

theorem WritesOnly.fmi_eq (hw : WritesOnly hs s t) (hd : dm1Handler d ∉ hs) :
    t.fmi.get d = s.fmi.get d := by
  obtain ⟨-, hfmi, -⟩ := hw
  exact hfmi d hd

/-- Only what runs a handler can write an FMI, and a handler writes its own row alone (R40, R153). -/
theorem ExecEffect.fmi_eq (he : ExecEffect s i t) (hd : dm1Handler d ∉ handlersRun s i) :
    t.fmi.get d = s.fmi.get d := by
  cases he with
  | handled h f t _ heff =>
    rw [handlersRun_instr] at hd
    exact heff.writesOnly.fmi_eq hd
  | dispatched f t _ heff => exact heff.writesOnly.fmi_eq hd
  | drained t hdrained => exact hdrained.writesOnly.fmi_eq hd
  | _ => rfl

end FaultTracker

/-- Settles O47: `FT.RESET` of a DM1 subsystem only answers; for every instruction, by what its effect
writes. -/
theorem ftResetLeavesTheFmiCodes : Obligations.FtResetLeavesTheFmiCodes :=
  ⟨exec_ftReset_dm1, fun _ _ _ _ hnext hd => (exec_next hnext).fmi_eq hd⟩

/-- Settles O45: by the length of the frame. -/
theorem dm1UpdateOverwritesAndNotifies : Obligations.Dm1UpdateOverwritesAndNotifies := by
  intro d f s
  constructor
  · intro hshort
    exact exec_dm1Instr_of_short hshort
  · intro hlong
    exact ⟨f.data[4], List.getElem?_eq_getElem hlong, exec_dm1Instr_of_long hlong⟩

end Sys2Proof.Machine
end

section
/-! SUPPORT. The command encoder (44_command_encoder.md): the frames of its two selector tables, and
what sending one does. -/

namespace Sys2Proof.Machine

section CommandEncoder

variable {sel v : Byte} {id : Word} {data : Lanes}

theorem exec_buildReset_of_some (s : State) (h : resetFrame sel = some (id, data)) :
    exec (.buildReset sel) s =
      .next ((s.emit (.frameOut id data)).answer ⟨.ok, .frame id data⟩) := by
  simp only [exec, execBuildReset, h, sendFrame, succeed]

theorem exec_buildSetpoint_of_some (s : State) (h : setpointFrame sel v = some (id, data)) :
    exec (.buildSetpoint sel v) s =
      .next ((s.emit (.frameOut id data)).answer ⟨.ok, .frame id data⟩) := by
  simp only [exec, execBuildSetpoint, h, sendFrame, succeed]

theorem resetFrame_linear :
    resetFrame 1 = some (0x18FECA48, ⟨0, 0, 0, 0, 0, 0, 0, 0⟩) := by decide

theorem resetFrame_position :
    resetFrame 2 = some (0x18FECA63, ⟨0, 0, 0, 0, 0, 0, 0, 0⟩) := by decide

theorem resetFrame_temperature :
    resetFrame 3 = some (0x18FECA50, ⟨0, 0, 0, 0, 0, 0, 0, 0⟩) := by decide

theorem txIdent_tread : txIdent Config.pgnTreadPosition Config.addrLinear = some 0x18FFF848 := by
  decide

theorem txIdent_heater : txIdent Config.pgnHeaterSetpoint Config.addrThermal = some 0x18F03750 := by
  decide

/-- The tread frame carries the setpoint in lane 3, over the fill (R196). -/
theorem setpointFrame_tread (v : Byte) : setpointFrame 1 v =
    some (0x18FFF848, ⟨0xFF, 0xFF, 0xFF, v, 0xFF, 0xFF, 0xFF, 0xFF⟩) :=
  congrArg (Option.map (·, memWrite1 (fillLanes Config.setpointFill) 3 v)) txIdent_tread

/-- The heater frame carries the setpoint in lane 0, over the fill (R196). -/
theorem setpointFrame_heater (v : Byte) : setpointFrame 2 v =
    some (0x18F03750, ⟨v, 0xFF, 0xFF, 0xFF, 0xFF, 0xFF, 0xFF, 0xFF⟩) :=
  congrArg (Option.map (·, memWrite1 (fillLanes Config.setpointFill) 0 v)) txIdent_heater

end CommandEncoder

/-- Settles O55: by the row of the selector. -/
theorem buildResetSendsItsThreeFrames : Obligations.BuildResetSendsItsThreeFrames := by
  rintro sel id s (⟨rfl, rfl⟩ | ⟨rfl, rfl⟩ | ⟨rfl, rfl⟩)
  · exact exec_buildReset_of_some s resetFrame_linear
  · exact exec_buildReset_of_some s resetFrame_position
  · exact exec_buildReset_of_some s resetFrame_temperature

/-- Settles O56: by the row of each selector, for every setpoint byte. -/
theorem buildSetpointSendsItsTwoFrames : Obligations.BuildSetpointSendsItsTwoFrames :=
  fun v s => ⟨exec_buildSetpoint_of_some s (setpointFrame_tread v),
    exec_buildSetpoint_of_some s (setpointFrame_heater v)⟩

end Sys2Proof.Machine
end

section
/-! SUPPORT. Selection: the rows of the mask and match table as conditions on the PGN and the source
address, and the agreement of `select` with the table (41_pgn_dispatch.md R120, 30_encoding.md R84).
-/

namespace Sys2Proof

section Selection

variable {id : Word} {r q : FrameRow}

/-- A PGN row reads the PGN alone. -/
theorem pgnRow_hits_iff (h : Handler) (pgn : Half) :
    (pgnRow h pgn).hits id = true ↔ idPgn id = pgn := by
  have hlt : pgn.toNat < 2 ^ 16 := pgn.isLt
  rw [FrameRow.hits_iff, pgnRow, and_pgnMask_toNat, ← BitVec.toNat_inj, idPgn_toNat,
    BitVec.toNat_shiftLeft, BitVec.toNat_setWidth, Nat.shiftLeft_eq]
  omega

/-- A DM1 row reads the source address too. -/
theorem dm1Row_hits_iff (h : Handler) (addr : Byte) :
    (dm1Row h addr).hits id = true ↔ idPgn id = Config.pgnDm1 ∧ idSa id = addr := by
  have hlt : addr.toNat < 2 ^ 8 := addr.isLt
  have hpat : (dm1Row h addr).pat.toNat = 0xFECA * 2 ^ 8 + addr.toNat := by
    have hor := Nat.two_pow_add_eq_or_of_lt hlt 0xFECA
    simp only [dm1Row, BitVec.toNat_or, BitVec.toNat_setWidth]
    rw [Nat.mod_eq_of_lt (by omega)]
    exact hor.symm
  rw [FrameRow.hits_iff, hpat, dm1Row, and_dm1Mask_toNat, ← BitVec.toNat_inj, ← BitVec.toNat_inj,
    idPgn_toNat, idSa_toNat, show Config.pgnDm1.toNat = 0xFECA from rfl]
  omega

/-- Two rows that hit one identifier ask the same of the bits both of them read. -/
theorem FrameRow.pat_and_mask_of_hits (hr : r.hits id = true) (hq : q.hits id = true) :
    r.pat &&& q.mask = q.pat &&& r.mask := by
  rw [FrameRow.hits, beq_iff_eq] at hr hq
  rw [← hr, ← hq, BitVec.and_assoc, BitVec.and_assoc, BitVec.and_comm r.mask]

/-- No identifier hits two rows of the table: any two rows differ on a bit both of them read. -/
theorem frameTable_row_unique (hr : r ∈ frameTable) (hq : q ∈ frameTable)
    (hrid : r.hits id = true) (hqid : q.hits id = true) : r = q := by
  have hdisjoint : ∀ r ∈ frameTable, ∀ q ∈ frameTable,
      r.pat &&& q.mask = q.pat &&& r.mask → r = q := by decide
  exact hdisjoint r hr q hq (FrameRow.pat_and_mask_of_hits hrid hqid)

theorem tableSelect_of_hits (hr : r ∈ frameTable) (hrid : r.hits id = true) :
    tableSelect id = r.handler := by
  obtain ⟨q, hq⟩ := Option.isSome_iff_exists.mp
    (List.find?_isSome (p := (·.hits id)) |>.mpr ⟨r, hr, hrid⟩)
  have hqr := frameTable_row_unique (List.mem_of_find?_eq_some hq) hr
    (List.find?_some (p := (FrameRow.hits · id)) hq) hrid
  rw [tableSelect, hq, hqr]

theorem tableSelect_of_no_hit (h : ∀ r ∈ frameTable, ¬ r.hits id = true) :
    tableSelect id = .drop := by
  rw [tableSelect, List.find?_eq_none.mpr h]

/-- A row that hits an identifier names the handler `select` gives it. -/
theorem select_of_hits (hr : r ∈ frameTable) (hrid : r.hits id = true) :
    select id = r.handler := by
  simp only [frameTable, List.mem_cons, List.not_mem_nil, or_false] at hr
  rcases hr with rfl | rfl | rfl | rfl | rfl | rfl | rfl | rfl | rfl | rfl | rfl <;>
    simp only [pgnRow_hits_iff, dm1Row_hits_iff] at hrid <;>
    simp [select, selectDm1, hrid, pgnRow, dm1Row]

/-- Where no row hits, every test of `select` fails. -/
theorem select_of_no_hit (h : ∀ r ∈ frameTable, ¬ r.hits id = true) : select id = .drop := by
  simp only [frameTable, List.forall_mem_cons, pgnRow_hits_iff, dm1Row_hits_iff, not_and] at h
  obtain ⟨h1, h2, h3, h4, h5, h6, h7, h8, h9, h10, h11, -⟩ := h
  unfold select
  rw [if_neg h1, if_neg h2, if_neg h3, if_neg h7, if_neg h8, if_neg h9, if_neg h10, if_neg h11]
  split
  · rename_i hdm1
    rw [selectDm1, if_neg (h4 hdm1), if_neg (h5 hdm1), if_neg (h6 hdm1)]
  · rfl

/-- `select` is the lookup in the mask and match table. -/
theorem select_eq_tableSelect (id : Word) : select id = tableSelect id := by
  by_cases h : ∃ r ∈ frameTable, r.hits id = true
  · obtain ⟨r, hr, hrid⟩ := h
    rw [select_of_hits hr hrid, tableSelect_of_hits hr hrid]
  · have hnone : ∀ r ∈ frameTable, ¬ r.hits id = true := by simpa using h
    rw [select_of_no_hit hnone, tableSelect_of_no_hit hnone]

/-- A handler is selected exactly where its row hits. -/
theorem select_eq_handler_iff (hr : r ∈ frameTable) : select id = r.handler ↔ r.hits id = true := by
  refine ⟨fun hsel => ?_, select_of_hits hr⟩
  have hinj : ∀ r ∈ frameTable, ∀ q ∈ frameTable, r.handler = q.handler → r = q := by decide
  have hdrop : ∀ r ∈ frameTable, r.handler ≠ .drop := by decide
  by_cases h : ∃ q ∈ frameTable, q.hits id = true
  · obtain ⟨q, hq, hqid⟩ := h
    rwa [hinj r hr q hq (hsel.symm.trans (select_of_hits hq hqid))]
  · have hnone : ∀ r ∈ frameTable, ¬ r.hits id = true := by simpa using h
    exact absurd (hsel.symm.trans (select_of_no_hit hnone)) (hdrop r hr)

/-- `select` reads the PGN, and the source address under the DM1 PGN alone (R81). -/
theorem select_congr {id' : Word} (hpgn : idPgn id = idPgn id')
    (hsa : idPgn id' = Config.pgnDm1 → idSa id = idSa id') : select id = select id' := by
  by_cases hdm1 : idPgn id' = Config.pgnDm1
  · simp only [select, hpgn, hsa hdm1]
  · simp only [select, hpgn, hdm1, if_false]

theorem idPgn_eq_iff (id : Word) (pgn : Half) :
    idPgn id = pgn ↔ id.toNat / 2 ^ 8 % 2 ^ 16 = pgn.toNat := by
  rw [← BitVec.toNat_inj, idPgn_toNat]

theorem idSa_eq_iff (id : Word) (addr : Byte) :
    idSa id = addr ↔ id.toNat % 2 ^ 8 = addr.toNat := by
  rw [← BitVec.toNat_inj, idSa_toNat, Nat.pow_zero, Nat.div_one]

end Selection

/-- Settles O7: each test of `select` is a test of the number; the DM1 PGN and the others are told
apart first. -/
theorem selectionFollowsPgnAndAddress : Obligations.SelectionFollowsPgnAndAddress := by
  intro id
  simp only [select, selectDm1, idPgn_eq_iff, idSa_eq_iff]
  generalize id.toNat / 2 ^ 8 % 2 ^ 16 = pgn
  by_cases hdm1 : pgn = 0xFECA
  · simp [hdm1]
  · simp [hdm1]

/-- Settles O8. -/
theorem selectionIsTheMaskTable : Obligations.SelectionIsTheMaskTable :=
  fun id => ⟨select_eq_tableSelect id, fun _ hr _ hq => frameTable_row_unique hr hq⟩

/-- Settles O9: the masks keep the fields `select` reads. -/
theorem selectionIgnoresTheOtherFields : Obligations.SelectionIgnoresTheOtherFields := by
  intro id
  constructor
  · apply select_congr
    · rw [← BitVec.toNat_inj, idPgn_toNat, idPgn_toNat, and_dm1Mask_toNat]
      omega
    · intro _
      rw [← BitVec.toNat_inj, idSa_toNat, idSa_toNat, and_dm1Mask_toNat]
      omega
  · intro hpgn
    apply select_congr
    · rw [← BitVec.toNat_inj, idPgn_toNat, idPgn_toNat, and_pgnMask_toNat]
      omega
    · intro hdm1
      exact absurd ((idPgn_eq_iff id _).mp hdm1) hpgn

end Sys2Proof
end

section
/-! SUPPORT. The decoder: each encoding is read back, what it accepts is well formed, and what it
refuses is a reserved encoding (30_encoding.md R75, R84, R86, R89, R90). -/

namespace Sys2Proof

section Decoder

variable {raw : RawFrame} {p : CommandPorts} {f : Frame} {h : Handler} {i : Instr}

theorem Frame.fits_iff : f.fits h = true ↔ f.data.length ≤ 8 ∧ select f.id = h := by
  rw [Frame.fits, Bool.and_eq_true, Frame.wf_iff, beq_iff_eq, select_eq_tableSelect]

theorem wf_instr (h : Handler) (f : Frame) : (h.instr f).wf = f.fits h := by cases h <;> rfl

theorem decodeFrame_of_frame (hf : raw.frame = .ok f) :
    decode (.frame raw) = .ok ((select f.id).instr f) := by
  simp only [decode, decodeFrame, hf]

/-- The wires of a frame that fits a row decode to the instruction of that row. -/
theorem decode_raw_of_fits (hf : f.fits h = true) : decode (.frame f.raw) = .ok (h.instr f) := by
  obtain ⟨hlen, hsel⟩ := Frame.fits_iff.mp hf
  rw [decodeFrame_of_frame (f.raw_frame hlen), hsel]

theorem decode_encode_dispatch (hf : f.wf = true) :
    decode (encode (.dispatch f)) = .ok (.dispatch f) := by
  simp only [encode, decode, decodeCommand, tagPorts, f.raw_frame (f.wf_iff.mp hf)]
  rfl

theorem subsystemOf_number (sub : Subsystem) : subsystemOf sub.number = some sub := by
  obtain b | d := sub
  · cases b <;> rfl
  · cases d <;> rfl

theorem regOf_number (reg : RegName) : regOf reg.number = some reg := by
  cases reg with
  | fb b => cases b <;> rfl
  | nf b => cases b <;> rfl
  | fmi d => cases d <;> rfl
  | _ => rfl

theorem decode_encode_ftReset (sub : Subsystem) :
    decode (encode (.ftReset sub)) = .ok (.ftReset sub) := by
  simp only [encode, decode, decodeCommand, tagPorts, subsystemOf_number]
  rfl

theorem decode_encode_read (reg : RegName) : decode (encode (.read reg)) = .ok (.read reg) := by
  simp only [encode, decode, decodeCommand, tagPorts, regOf_number]
  rfl

/-- Every well-formed instruction is read back from its encoding. -/
theorem decode_encode (hi : i.wf = true) : decode (encode i) = .ok i := by
  cases i with
  | bmpTach f => exact decode_raw_of_fits hi
  | bmpFuel f => exact decode_raw_of_fits hi
  | bmpTherm f => exact decode_raw_of_fits hi
  | dm1Lin f => exact decode_raw_of_fits hi
  | dm1Temp f => exact decode_raw_of_fits hi
  | dm1Pos f => exact decode_raw_of_fits hi
  | sigLin f => exact decode_raw_of_fits hi
  | sigEtemp f => exact decode_raw_of_fits hi
  | sigPos f => exact decode_raw_of_fits hi
  | sigOri f => exact decode_raw_of_fits hi
  | testAck f => exact decode_raw_of_fits hi
  | drop f => exact decode_raw_of_fits hi
  | dispatch f => exact decode_encode_dispatch hi
  | ftReset sub => exact decode_encode_ftReset sub
  | read reg => exact decode_encode_read reg
  | decodeId _ => rfl
  | encodeId _ _ _ _ _ => rfl
  | drain => rfl
  | buildReset _ => rfl
  | buildSetpoint _ _ => rfl
  | adjust _ _ => rfl

theorem RawFrame.wf_of_frame (hf : raw.frame = .ok f) : f.wf = true := by
  obtain ⟨hlen, rfl⟩ := RawFrame.frame_ok hf
  rw [Frame.wf_iff, List.length_take]
  omega

theorem wf_of_decodeFrame (hd : decodeFrame raw = .ok i) : i.wf = true := by
  unfold decodeFrame at hd
  split at hd
  · rename_i f hf
    obtain rfl := Except.ok.inj hd
    rw [wf_instr, Frame.fits_iff]
    exact ⟨f.wf_iff.mp (RawFrame.wf_of_frame hf), rfl⟩
  · cases hd

/-- A command's operands need no check, but for the frame of `DISPATCH`. -/
theorem wf_of_decodeCommand (hd : decodeCommand p = .ok i) : i.wf = true := by
  unfold decodeCommand at hd
  split at hd
  case h_3 =>
    split at hd
    · obtain rfl := Except.ok.inj hd
      exact RawFrame.wf_of_frame ‹_›
    · cases hd
  case h_5 =>
    split at hd
    · obtain rfl := Except.ok.inj hd
      rfl
    · cases hd
  case h_9 =>
    split at hd
    · obtain rfl := Except.ok.inj hd
      rfl
    · cases hd
  case h_10 => cases hd
  all_goals
    obtain rfl := Except.ok.inj hd
    rfl

end Decoder

/-- Settles O5: by the rows of the opcode table. -/
theorem decodeInvertsEncode : Obligations.DecodeInvertsEncode := fun _ => decode_encode

/-- Settles O6: by the two formats. -/
theorem decodedInstructionsAreWellFormed : Obligations.DecodedInstructionsAreWellFormed := by
  intro r i hd
  cases r with
  | frame raw => exact wf_of_decodeFrame hd
  | command p => exact wf_of_decodeCommand hd

/-- Settles O10: the words are fixed. -/
theorem writtenWordsDecode : Obligations.WrittenWordsDecode := by
  unfold Obligations.WrittenWordsDecode
  decide

section Reserved

variable {raw : RawFrame} {p : CommandPorts}

theorem decode_frame_reserved (h : 8 < raw.len.toNat) :
    decode (.frame raw) = .error .reservedLength := by
  simp only [decode, decodeFrame, RawFrame.frame_of_gt h]

theorem decode_tag_reserved (h : 8 < p.op.toNat) :
    decode (.command p) = .error .reservedTag := by
  simp only [decode]
  unfold decodeCommand
  split
  case h_10 => rfl
  all_goals omega

theorem decode_dispatch_reserved (hop : p.op = 2) (h : 8 < p.frame.len.toNat) :
    decode (.command p) = .error .reservedLength := by
  simp only [decode, decodeCommand, hop, RawFrame.frame_of_gt h]
  rfl

theorem subsystemOf_isSome (n : BitVec 3) : (subsystemOf n).isSome = decide (n.toNat ≤ 5) := by
  revert n
  decide

theorem regOf_isSome (n : BitVec 4) : (regOf n).isSome = decide (n.toNat ≤ 13) := by
  revert n
  decide

theorem subsystemOf_reserved {n : BitVec 3} (h : 5 < n.toNat) : subsystemOf n = none := by
  rw [← Option.isNone_iff_eq_none, ← Option.not_isSome, subsystemOf_isSome]
  simp [h]

theorem regOf_reserved {n : BitVec 4} (h : 13 < n.toNat) : regOf n = none := by
  rw [← Option.isNone_iff_eq_none, ← Option.not_isSome, regOf_isSome]
  simp [h]

theorem decode_ftReset_reserved (hop : p.op = 4) (h : 5 < p.sub.toNat) :
    decode (.command p) = .error .reservedSubsystem := by
  simp only [decode, decodeCommand, hop, subsystemOf_reserved h]
  rfl

theorem decode_read_reserved (hop : p.op = 8) (h : 13 < p.reg.toNat) :
    decode (.command p) = .error .reservedRegister := by
  simp only [decode, decodeCommand, hop, regOf_reserved h]
  rfl

end Reserved

end Sys2Proof
end

section
/-! SUPPORT. The host's moves (60_exceptions.md R241): which ones the interface admits, what a step
does with each, and the inversion of `step`. -/

namespace Sys2Proof.Machine

section Admits

variable {raw : RawFrame} {p : CommandPorts} {r : Request}

/-- The tags of R86: three read a port that has reserved values, the rest do not; then the reserved
tags. -/
theorem tag_cases (op : BitVec 4) :
    op = 2 ∨ op = 4 ∨ op = 8 ∨ 8 < op.toNat ∨ op ∈ [0, 1, 3, 5, 6, 7] := by
  revert op
  decide

theorem decode_frame_ok_iff : (∃ i, decode (.frame raw) = .ok i) ↔ raw.len.toNat ≤ 8 := by
  constructor
  · rintro ⟨i, hi⟩
    by_contra hlen
    rw [decode_frame_reserved (Nat.not_le.mp hlen)] at hi
    cases hi
  · intro hlen
    exact ⟨_, decodeFrame_of_frame (RawFrame.frame_of_le hlen)⟩

/-- A command is decoded exactly when no port it reads carries a reserved encoding (R90). -/
theorem decode_command_ok_iff : (∃ i, decode (.command p) = .ok i) ↔ admitsCommand p = true := by
  obtain h | h | h | h | h := tag_cases p.op
  · by_cases hlen : p.frame.len.toNat ≤ 8
    · simp [decode, decodeCommand, admitsCommand, h, hlen, RawFrame.frame_of_le hlen]
    · simp [decode_dispatch_reserved h (Nat.not_le.mp hlen), admitsCommand, h, hlen]
  · by_cases hsub : p.sub.toNat ≤ 5
    · obtain ⟨sub, hs⟩ := Option.isSome_iff_exists.mp
        ((subsystemOf_isSome p.sub).trans (decide_eq_true hsub))
      simp [decode, decodeCommand, admitsCommand, h, hsub, hs]
    · simp [decode_ftReset_reserved h (Nat.not_le.mp hsub), admitsCommand, h, hsub]
  · by_cases hreg : p.reg.toNat ≤ 13
    · obtain ⟨reg, hr⟩ := Option.isSome_iff_exists.mp
        ((regOf_isSome p.reg).trans (decide_eq_true hreg))
      simp [decode, decodeCommand, admitsCommand, h, hreg, hr]
    · simp [decode_read_reserved h (Nat.not_le.mp hreg), admitsCommand, h, hreg]
  · simp [decode_tag_reserved h, admitsCommand, Nat.not_le.mpr h]
  · simp only [List.mem_cons, List.not_mem_nil, or_false] at h
    rcases h with h | h | h | h | h | h <;> simp [decode, decodeCommand, admitsCommand, h]

theorem decode_ok_iff_admits : (∃ i, decode r = .ok i) ↔ admits (.request r) = true := by
  cases r with
  | frame raw => rw [decode_frame_ok_iff, admits, decide_eq_true_eq]
  | command p => exact decode_command_ok_iff

end Admits

section Step

variable {s t : State} {raw : RawFrame} {f : Frame} {r : Request} {i : Instr} {m : HostMove}
  {rest : List HostMove}

theorem step_idle (h : s.moves = []) : step s = .next s := by simp only [step, nextMove, h]

theorem step_cons (h : s.moves = m :: rest) : step s = perform m (s.setMoves rest) := by
  simp only [step, nextMove, h]

theorem step_reset (h : s.moves = .reset :: rest) : step s = .next (State.reset.setMoves rest) :=
  step_cons h

/-- The queue is unbounded (D26): an admitted frame always finds room. -/
theorem step_push (h : s.moves = .push raw :: rest) (hf : raw.frame = .ok f) :
    step s = .next ((s.setMoves rest).setRxq (s.rxq ++ [f])) := by
  rw [step_cons h, perform, execPush, hf]
  rfl

theorem step_push_reserved (h : s.moves = .push raw :: rest) (hlen : 8 < raw.len.toNat) :
    step s = .refused .reservedLength := by
  rw [step_cons h, perform, execPush, RawFrame.frame_of_gt hlen]
  rfl

theorem step_request (h : s.moves = .request r :: rest) (hd : decode r = .ok i) :
    step s = exec i (s.setMoves rest) := by
  rw [step_cons h, perform, hd]

theorem step_request_error {e : DecodeError} (h : s.moves = .request r :: rest)
    (hd : decode r = .error e) : step s = .refused (refusalOf e) := by
  rw [step_cons h, perform, hd]

/-- Everything a step that answers can have done. -/
inductive StepEffect (s : State) : State → Prop where
  | idle (hm : s.moves = []) : StepEffect s s
  | pushed (raw : RawFrame) (f : Frame) (rest : List HostMove) (hm : s.moves = .push raw :: rest)
      (hf : raw.frame = .ok f) : StepEffect s ((s.setMoves rest).setRxq (s.rxq ++ [f]))
  | reset (rest : List HostMove) (hm : s.moves = .reset :: rest) :
      StepEffect s (State.reset.setMoves rest)
  | ran (r : Request) (i : Instr) (rest : List HostMove) (t : State)
      (hm : s.moves = .request r :: rest) (hd : decode r = .ok i)
      (he : ExecEffect (s.setMoves rest) i t) : StepEffect s t

/-- A step either does one of these, its next move being admitted, or is refused, the next move
carrying a reserved encoding. -/
theorem step_spec (s : State) :
    (∃ t, step s = .next t ∧ StepEffect s t ∧ ∀ m ∈ s.moves.head?, admits m = true) ∨
    (∃ e, step s = .refused e) ∧ ∃ m ∈ s.moves.head?, ¬ admits m = true := by
  cases hm : s.moves with
  | nil => exact .inl ⟨s, step_idle hm, .idle hm, nofun⟩
  | cons m rest =>
    simp only [List.head?_cons, Option.mem_def, Option.some.injEq, forall_eq', exists_eq_left']
    cases m with
    | reset => exact .inl ⟨_, step_reset hm, .reset rest hm, rfl⟩
    | push raw =>
      by_cases hlen : raw.len.toNat ≤ 8
      · have hf := RawFrame.frame_of_le hlen
        exact .inl ⟨_, step_push hm hf, .pushed raw _ rest hm hf, decide_eq_true hlen⟩
      · exact .inr ⟨⟨_, step_push_reserved hm (Nat.not_le.mp hlen)⟩, by simpa [admits] using hlen⟩
    | request r =>
      rw [← decode_ok_iff_admits]
      cases hd : decode r with
      | error e => exact .inr ⟨⟨_, step_request_error hm hd⟩, nofun⟩
      | ok i =>
        obtain ⟨t, ht, he⟩ := exec_spec i (s.setMoves rest)
        exact .inl ⟨t, (step_request hm hd).trans ht, .ran r i rest t hm hd he, i, rfl⟩

/-- The inversion of `step`. -/
theorem step_next (h : step s = .next t) : StepEffect s t := by
  obtain ⟨u, hu, he, -⟩ | ⟨⟨e, he⟩, -⟩ := step_spec s
  · obtain rfl := Host.Outcome.next.inj (hu.symm.trans h)
    exact he
  · cases he.symm.trans h

theorem HandlerEffect.moves_eq {h : Handler} (he : HandlerEffect f s h t) : t.moves = s.moves :=
  he.host_side.1

theorem HandlerEffect.replies_eq {h : Handler} (he : HandlerEffect f s h t) :
    t.replies = s.replies := he.host_side.2.1

theorem HandlerEffect.rxq_eq {h : Handler} (he : HandlerEffect f s h t) : t.rxq = s.rxq :=
  he.host_side.2.2

/-- No instruction touches the host's moves. -/
theorem ExecEffect.moves_eq (he : ExecEffect s i t) : t.moves = s.moves := by
  cases he with
  | handled h f t _ heff => exact heff.moves_eq
  | dispatched f t _ heff => exact heff.moves_eq
  | drained t hd => exact hd.host_side.1
  | _ => rfl

/-- A step takes the next move off the list and no other. -/
theorem StepEffect.moves_eq (he : StepEffect s t) : t.moves = s.moves.tail := by
  cases he with
  | idle hm => rw [hm, List.tail_nil]
  | pushed raw f rest hm _ => rw [hm]; rfl
  | reset rest hm => rw [hm]; rfl
  | ran r i rest t hm _ he => rw [hm, he.moves_eq]; rfl

theorem run_succ {k : Nat} (h : step s = .next t) : core.run (k + 1) s = core.run k t := by
  have hcore : core.step s = .next t := h
  simp only [Host.Core.run, hcore]

/-- A machine whose pending moves are all admitted runs through them. -/
theorem run_of_admitted (moves : List HostMove) (s : State) (hs : s.moves = moves)
    (hm : ∀ m ∈ moves, admits m = true) :
    ∃ t, core.run moves.length s = .next t ∧ t.moves = [] := by
  induction moves generalizing s with
  | nil => exact ⟨s, rfl, hs⟩
  | cons m rest ih =>
    obtain ⟨hfirst, hrest⟩ := List.forall_mem_cons.mp hm
    obtain ⟨t, ht, he, -⟩ | ⟨-, m', hmem, hne⟩ := step_spec s
    · obtain ⟨u, hu, hnil⟩ := ih t (by rw [he.moves_eq, hs, List.tail_cons]) hrest
      exact ⟨u, (run_succ ht).trans hu, hnil⟩
    · rw [hs, List.head?_cons, Option.mem_some_iff] at hmem
      exact absurd hfirst (hmem ▸ hne)

end Step

/-- Settles O4. -/
theorem hardwareResetRestoresResetState : Obligations.HardwareResetRestoresResetState :=
  fun _ _ h => step_reset h

/-- Settles O11: by the port that carries the reserved encoding. -/
theorem reservedEncodingsAreRefusedByName : Obligations.ReservedEncodingsAreRefusedByName := by
  intro s rest
  refine ⟨fun raw hlen hm => ?_, fun p hm => ⟨fun h => ?_, fun hop h => ?_, fun hop h => ?_,
    fun hop h => ?_⟩⟩
  · obtain hm | hm := hm
    · exact step_push_reserved hm hlen
    · exact step_request_error hm (decode_frame_reserved hlen)
  · exact step_request_error hm (decode_tag_reserved h)
  · exact step_request_error hm (decode_dispatch_reserved hop h)
  · exact step_request_error hm (decode_ftReset_reserved hop h)
  · exact step_request_error hm (decode_read_reserved hop h)

/-- Settles O12. -/
theorem stepRunsTheDecodedInstruction : Obligations.StepRunsTheDecodedInstruction :=
  fun _ _ _ _ hm hd => step_request hm hd

/-- Settles O13: the placed word is the next move, and without it the state is as before. -/
theorem fetchedTableWordRunsNext : Obligations.FetchedTableWordRunsNext := by
  intro s nbits w i hi
  unfold decodeTableWord at hi
  split at hi
  · cases hi
  · rename_i r hr
    split at hi
    · rename_i j hd
      obtain rfl := Option.some.inj hi
      rw [State.withFetchWord, hr]
      exact step_request (rest := s.moves) rfl hd
    · cases hi

/-- Settles O14. -/
theorem pushAppendsTheFrame : Obligations.PushAppendsTheFrame :=
  fun _ _ _ hm hlen => step_push hm (RawFrame.frame_of_le hlen)

/-- Settles O15. -/
theorem everyInstructionCompletes : Obligations.EveryInstructionCompletes := by
  intro i s
  obtain ⟨t, ht, -⟩ := exec_spec i s
  exact ⟨t, ht⟩

/-- Settles O16: the two ways a step can end exclude each other. -/
theorem stepStopsOnlyOnReservedEncodings : Obligations.StepStopsOnlyOnReservedEncodings := by
  intro s
  obtain ⟨t, ht, -, hadm⟩ | ⟨⟨e, he⟩, m, hmem, hnot⟩ := step_spec s
  · exact ⟨fun r => by rw [ht]; nofun, fun _ => hadm, fun _ => ⟨t, ht⟩⟩
  · refine ⟨fun r => by rw [he]; nofun, fun ⟨t, ht⟩ => ?_, fun hadm => absurd (hadm m hmem) hnot⟩
    cases he.symm.trans ht

/-- Settles O17: by induction on the moves. -/
theorem admittedRunsComplete : Obligations.AdmittedRunsComplete :=
  fun s hm => run_of_admitted s.moves s rfl hm

end Sys2Proof.Machine
end

section
/-! SUPPORT. The legal values (10_state.md R22, R23, R25, R26, R29, R33) are kept by every handler,
every instruction and every step. -/

namespace Sys2Proof.Machine

section LegalValues

variable {f : Frame} {q : List Frame} {h : Handler} {i : Instr} {s t : State} {id : Word}
  {data : Lanes} {sel v : Byte}

theorem packIdent_lt {pri pgn sa : Word} {edp dp : BitVec 1}
    (h : packIdent pri edp dp pgn sa = some id) : id.toNat < 2 ^ 29 := by
  obtain ⟨hpri, hpgn, hsa, hsum⟩ := packIdent_eq_some h
  have hedp := edp.isLt
  have hdp := dp.isLt
  omega

/-- Bits 31:29 of every frame the block builds are zero (R190). -/
theorem resetFrame_lt (h : resetFrame sel = some (id, data)) : id.toNat < 2 ^ 29 := by
  unfold resetFrame at h
  split at h
  · cases h
  · obtain ⟨w, hw, hpair⟩ := Option.map_eq_some_iff.mp h
    cases hpair
    exact packIdent_lt hw

theorem setpointFrame_lt (h : setpointFrame sel v = some (id, data)) : id.toNat < 2 ^ 29 := by
  unfold setpointFrame at h
  split at h
  case h_3 => cases h
  all_goals
    obtain ⟨w, hw, hpair⟩ := Option.map_eq_some_iff.mp h
    cases hpair
    exact packIdent_lt hw

theorem ackId_lt : Config.ackId.toNat < 2 ^ 29 := by
  have hlt : Config.ackIdent.toNat < 2 ^ 29 := ackIdent_lt
  rw [Config.ackId, BitVec.toNat_setWidth]
  omega

theorem newFaultsMask_inside (prev work : Byte) : newFaultsMask prev work &&& ~~~work = 0 := by
  rw [newFaultsMask_eq, BitVec.and_comm work, BitVec.and_assoc, BitVec.and_not_self]
  simp

/-- A bit that was set is no new fault. -/
theorem newFaultsMask_getLsbD_of_set {prev : Byte} {j : Nat} (h : prev.getLsbD j = true)
    (work : Byte) : (newFaultsMask prev work).getLsbD j = false := by
  rw [newFaultsMask_eq, BitVec.getLsbD_and, BitVec.getLsbD_not, h]
  simp

theorem fmiCode_toNat_le (lane : Byte) : (BitVec.ofNat 8 (lane.toNat % 32)).toNat ≤ 31 := by
  rw [BitVec.toNat_ofNat]
  omega

/-- The engine temperature is in its range whatever the byte (R29). -/
theorem temperatureNumerator_range (b : Byte) :
    -40 ≤ (temperatureNumerator b).toInt ∧ (temperatureNumerator b).toInt ≤ 215 := by
  have hlt : b.toNat < 256 := b.isLt
  rw [temperatureNumerator_toInt]
  omega

theorem State.Inv.setRxq (hi : s.Inv) (hq : ∀ f ∈ q, f.data.length ≤ 8) : (s.setRxq q).Inv :=
  ⟨hi.fbSentinel, hi.nfNoSentinel, hi.fmiCode, hi.etempRange, hq, hi.outLegal⟩

/-- A bitmap write keeps the legal values when the written bitmap keeps the reserved bit. -/
theorem State.Inv.setFb {b : BitmapSub} (hi : s.Inv) (hv : v.getLsbD 7 = true) :
    (s.setFb b v).Inv :=
  ⟨fun c => by
    rw [State.setFb_fb, BitmapBank.get_set]
    split
    · exact hv
    · exact hi.fbSentinel c,
   hi.nfNoSentinel, hi.fmiCode, hi.etempRange, hi.rxqLengths, hi.outLegal⟩

theorem State.Inv.setNf {b : BitmapSub} (hi : s.Inv) (hv : v.getLsbD 7 = false) :
    (s.setNf b v).Inv :=
  ⟨hi.fbSentinel, fun c => by
    rw [State.setNf_nf, BitmapBank.get_set]
    split
    · exact hv
    · exact hi.nfNoSentinel c,
   hi.fmiCode, hi.etempRange, hi.rxqLengths, hi.outLegal⟩

theorem State.Inv.setFmi {d : Dm1Sub} (hi : s.Inv) (hv : v.toNat ≤ 31) : (s.setFmi d v).Inv :=
  ⟨hi.fbSentinel, hi.nfNoSentinel, fun c => by
    rw [State.setFmi_fmi, FmiBank.get_set]
    split
    · exact hv
    · exact hi.fmiCode c,
   hi.etempRange, hi.rxqLengths, hi.outLegal⟩

theorem State.Inv.setSvLin {n : Half} (hi : s.Inv) : (s.setSvLin n).Inv :=
  ⟨hi.fbSentinel, hi.nfNoSentinel, hi.fmiCode, hi.etempRange, hi.rxqLengths, hi.outLegal⟩

theorem State.Inv.setSvPos {x y : Half} (hi : s.Inv) : (s.setSvPos x y).Inv :=
  ⟨hi.fbSentinel, hi.nfNoSentinel, hi.fmiCode, hi.etempRange, hi.rxqLengths, hi.outLegal⟩

theorem State.Inv.setSvOri {n : Half} (hi : s.Inv) : (s.setSvOri n).Inv :=
  ⟨hi.fbSentinel, hi.nfNoSentinel, hi.fmiCode, hi.etempRange, hi.rxqLengths, hi.outLegal⟩

theorem State.Inv.setSvEtemp {n : Half} (hi : s.Inv) (hn : -40 ≤ n.toInt ∧ n.toInt ≤ 215) :
    (s.setSvEtemp n).Inv :=
  ⟨hi.fbSentinel, hi.nfNoSentinel, hi.fmiCode, fun _ => hn, hi.rxqLengths, hi.outLegal⟩

/-- A handler keeps the legal values. In a bitmap update bit 7 of the working copy is the old one,
which is set, so it is no new fault. -/
theorem HandlerEffect.inv (he : HandlerEffect f s h t) (hi : s.Inv) : t.Inv := by
  cases he with
  | bitmap b work _ hseven =>
    have hwork : work.getLsbD 7 = true := hseven.trans (hi.fbSentinel b)
    have hmask := newFaultsMask_getLsbD_of_set (hi.fbSentinel b) work
    have hset := (hi.setFb (b := b) hwork).setNf (b := b) hmask
    split
    · exact hset
    · exact hset.emit (e := .newFault b work _)
        ⟨‹_›, newFaultsMask_inside _ work, hmask, hwork⟩
  | dm1 d lane _ =>
    exact (hi.setFmi (d := d) (fmiCode_toNat_le lane)).emit (e := .fmiChanged d _)
      (fmiCode_toNat_le lane)
  | linear => exact hi.setSvLin.emit (e := .signalChanged (.linearDisplacement _)) trivial
  | temperature b _ =>
    exact (hi.setSvEtemp (temperatureNumerator_range b)).emit
      (e := .signalChanged (.engineTemperature _)) (temperatureNumerator_range b)
  | position => exact hi.setSvPos.emit (e := .signalChanged (.vehiclePosition _ _)) trivial
  | orientation => exact hi.setSvOri.emit (e := .signalChanged (.vehicleOrientation _)) trivial
  | acknowledge => exact hi.emit (e := .frameOut _ _) ackId_lt
  | drop => exact hi

theorem Drained.inv (hd : Drained q s t) (hq : ∀ f ∈ q, f.data.length ≤ 8) (hi : s.Inv) :
    t.Inv := by
  induction hd with
  | empty => exact hi
  | handled _ heff _ ih =>
    obtain ⟨-, hrest⟩ := List.forall_mem_cons.mp hq
    exact ih hrest (heff.inv (hi.setRxq hrest))
  | malformed _ _ ih =>
    obtain ⟨-, hrest⟩ := List.forall_mem_cons.mp hq
    exact ih hrest ((hi.setRxq hrest).emit (e := .frameError _ _) rfl)

theorem ExecEffect.inv (he : ExecEffect s i t) (hi : s.Inv) : t.Inv := by
  cases he with
  | handled h f t _ heff => exact (heff.inv hi).answer
  | dispatched f t _ heff => exact (heff.inv hi).answer
  | drained t hd => exact (hd.inv hi.rxqLengths hi).answer
  | resetBitmap b => exact (hi.setFb (by decide)).answer
  | builtReset sel id data h => exact (hi.emit (e := .frameOut id data) (resetFrame_lt h)).answer
  | builtSetpoint sel v id data h =>
    exact (hi.emit (e := .frameOut id data) (setpointFrame_lt h)).answer
  | _ => exact hi.answer

/-- The legal values hold right after reset. -/
theorem reset_inv : State.reset.Inv where
  fbSentinel b := by cases b <;> decide
  nfNoSentinel b := by cases b <;> decide
  fmiCode d := by cases d <;> decide
  etempRange h := nomatch h
  rxqLengths _ h := nomatch h
  outLegal _ h := nomatch h

theorem StepEffect.inv (he : StepEffect s t) (hi : s.Inv) : t.Inv := by
  cases he with
  | idle _ => exact hi
  | reset rest _ => exact reset_inv.setMoves
  | ran r i rest t _ _ he => exact he.inv hi.setMoves
  | pushed raw f rest _ hf =>
    refine hi.setMoves.setRxq fun g hg => ?_
    obtain hg | hg := List.mem_append.mp hg
    · exact hi.rxqLengths g hg
    · rw [List.mem_singleton.mp hg]
      exact f.wf_iff.mp (RawFrame.wf_of_frame hf)

end LegalValues

/-- Settles O3: by what the step did. -/
theorem stepKeepsTheLegalValues : Obligations.StepKeepsTheLegalValues :=
  fun _ _ hi hnext => (step_next hnext).inv hi

/-- Settles O2. -/
theorem resetMeetsTheLegalValues : Obligations.ResetMeetsTheLegalValues := reset_inv

/-- Settles O1: by the rows of the table. -/
theorem resetStateHoldsTheTable : Obligations.ResetStateHoldsTheTable := by
  refine ⟨fun b => ?_, fun d => ?_, fun b => ?_, rfl, rfl, rfl, rfl, rfl, rfl, rfl, rfl⟩
  · cases b <;> rfl
  · cases d <;> rfl
  · cases b <;> rfl

end Sys2Proof.Machine
end

section
/-! SUPPORT. What an instruction may change (10_state.md R40, 60_exceptions.md R224, R226): one
lemma for each promise, from the effect of the instruction. -/

namespace Sys2Proof.Machine

section Promises

variable {f : Frame} {q : List Frame} {h : Handler} {i : Instr} {s t : State}

/-- An instruction writes the registers of the handlers it runs, or it is the `FT.RESET` of a bitmap
subsystem and writes that bitmap alone (R40). -/
theorem ExecEffect.writesOnly (he : ExecEffect s i t) : WritesOnly (handlersRun s i) s t ∨
    ∃ b, i = .ftReset (.bitmap b) ∧ t = (s.setFb b 0x80).answer ⟨.ok, .empty⟩ := by
  cases he with
  | handled h f t _ heff =>
    rw [handlersRun_instr]
    exact .inl heff.writesOnly
  | dispatched f t _ heff => exact .inl heff.writesOnly
  | drained t hd => exact .inl hd.writesOnly
  | resetBitmap b => exact .inr ⟨b, rfl, rfl⟩
  | _ => exact .inl (.refl _ s)

theorem ExecEffect.nf_eq {b : BitmapSub} (he : ExecEffect s i t)
    (hb : bitmapHandler b ∉ handlersRun s i) : t.nf.get b = s.nf.get b := by
  obtain ⟨hbitmap, -⟩ | ⟨c, -, rfl⟩ := he.writesOnly
  · exact (hbitmap b hb).2
  · rfl

theorem ExecEffect.fb_eq {b : BitmapSub} (he : ExecEffect s i t)
    (hb : bitmapHandler b ∉ handlersRun s i) (hi : i ≠ .ftReset (.bitmap b)) :
    t.fb.get b = s.fb.get b := by
  obtain ⟨hbitmap, -⟩ | ⟨c, rfl, rfl⟩ := he.writesOnly
  · exact (hbitmap b hb).1
  · have hne : ¬ b = c := fun hbc => hi (hbc ▸ rfl)
    simp [BitmapBank.get_set, hne]

/-- Each signal register is written by its own handler alone. -/
theorem ExecEffect.signals_eq (he : ExecEffect s i t) :
    (.sigLin ∉ handlersRun s i → t.svLin = s.svLin) ∧
    (.sigEtemp ∉ handlersRun s i → t.svEtemp = s.svEtemp) ∧
    (.sigPos ∉ handlersRun s i → t.svPos = s.svPos) ∧
    (.sigOri ∉ handlersRun s i → t.svOri = s.svOri) := by
  obtain ⟨-, -, hsignals⟩ | ⟨b, -, rfl⟩ := he.writesOnly
  · exact hsignals
  · exact ⟨fun _ => rfl, fun _ => rfl, fun _ => rfl, fun _ => rfl⟩

theorem ExecEffect.rxq_eq (he : ExecEffect s i t) (hi : i ≠ .drain) : t.rxq = s.rxq := by
  cases he with
  | handled h f t _ heff => exact heff.rxq_eq
  | dispatched f t _ heff => exact heff.rxq_eq
  | drained t _ => exact absurd rfl hi
  | _ => rfl

/-- An instruction other than `DRAIN` appends at most one event (R33). -/
theorem ExecEffect.out_grows (he : ExecEffect s i t) :
    ∃ new, t.out = s.out ++ new ∧ new.length ≤ (if i = .drain then s.rxq.length else 1) := by
  cases he with
  | handled h f t _ heff => simpa [instr_ne_drain] using heff.out_grows
  | malformed h f _ => exact ⟨[], by simp, by simp⟩
  | dispatched f t _ heff => simpa using heff.out_grows
  | drained t hd => simpa using hd.out_grows
  | builtReset sel id data _ => exact ⟨[.frameOut id data], rfl, by simp⟩
  | builtSetpoint sel v id data _ => exact ⟨[.frameOut id data], rfl, by simp⟩
  | _ => exact ⟨[], by simp, by simp⟩

/-- The error statuses an instruction may end with (R224). -/
def MayRaise (s : State) (i : Instr) (e : Status) : Prop :=
  (e = .invalidField ∧
    ((∃ pri edp dp pgn sa, i = .encodeId pri edp dp pgn sa) ∨ (∃ sel, i = .buildReset sel) ∨
      ∃ sel v, i = .buildSetpoint sel v)) ∨
  (e = .malformedPayload ∧ handlersRun s i ≠ [] ∧ i ≠ .drain) ∨
  (e = .noValue ∧ ∃ reg, i = .read reg)

/-- Every instruction answers once: with OK, or with an error it may raise, no result and no other
change (R224, R226). -/
theorem ExecEffect.reply (he : ExecEffect s i t) : ∃ r, t.replies = s.replies ++ [r] ∧
    (r.status = .ok ∨ MayRaise s i r.status ∧ r.result = .empty ∧ t = s.answer r) := by
  cases he with
  | handled h f t _ heff =>
    exact ⟨⟨.ok, .empty⟩, by rw [State.answer_replies, heff.replies_eq], .inl rfl⟩
  | dispatched f t _ heff =>
    exact ⟨⟨.ok, .empty⟩, by rw [State.answer_replies, heff.replies_eq], .inl rfl⟩
  | drained t hd =>
    exact ⟨⟨.ok, .empty⟩, by rw [State.answer_replies, hd.host_side.2], .inl rfl⟩
  | malformed h f _ =>
    refine ⟨_, rfl, .inr ⟨.inr (.inl ⟨rfl, ?_, instr_ne_drain h f⟩), rfl, rfl⟩⟩
    rw [handlersRun_instr]
    exact List.cons_ne_nil _ _
  | dispatchMalformed f _ => exact ⟨_, rfl, .inr ⟨.inr (.inl ⟨rfl, nofun, nofun⟩), rfl, rfl⟩⟩
  | encodeInvalid pri edp dp pgn sa _ =>
    exact ⟨_, rfl, .inr ⟨.inl ⟨rfl, .inl ⟨pri, edp, dp, pgn, sa, rfl⟩⟩, rfl, rfl⟩⟩
  | resetInvalid sel _ => exact ⟨_, rfl, .inr ⟨.inl ⟨rfl, .inr (.inl ⟨sel, rfl⟩)⟩, rfl, rfl⟩⟩
  | setpointInvalid sel v _ =>
    exact ⟨_, rfl, .inr ⟨.inl ⟨rfl, .inr (.inr ⟨sel, v, rfl⟩)⟩, rfl, rfl⟩⟩
  | readNothing reg _ => exact ⟨_, rfl, .inr ⟨.inr (.inr ⟨rfl, reg, rfl⟩), rfl, rfl⟩⟩
  | _ => exact ⟨_, rfl, .inl rfl⟩

/-- No instruction but `FT.RESET` of the subsystem clears a fault bit (R23). -/
theorem ExecEffect.latched {b : BitmapSub} (he : ExecEffect s i t)
    (hi : i ≠ .ftReset (.bitmap b)) : t.fb.get b &&& s.fb.get b = s.fb.get b := by
  cases he with
  | handled h f t _ heff => exact heff.latched b
  | dispatched f t _ heff => exact heff.latched b
  | drained t hd => exact hd.latched b
  | resetBitmap c =>
    rw [(ExecEffect.resetBitmap (s := s) c).fb_eq List.not_mem_nil hi, BitVec.and_self]
  | _ => exact BitVec.and_self

theorem ExecEffect.keepsMarks (he : ExecEffect s i t) : KeepsMarks s t := by
  cases he with
  | handled h f t _ heff => exact heff.keepsMarks
  | dispatched f t _ heff => exact heff.keepsMarks
  | drained t hd => exact hd.keepsMarks
  | _ => exact ⟨id, id, id, id⟩

theorem ExecEffect.newFaultsInside (he : ExecEffect s i t)
    (hi : ∀ b, i ≠ .ftReset (.bitmap b)) (hs : s.NewFaultsInside) : t.NewFaultsInside := by
  cases he with
  | handled h f t _ heff => exact heff.newFaultsInside hs
  | dispatched f t _ heff => exact heff.newFaultsInside hs
  | drained t hd => exact hd.newFaultsInside hs
  | resetBitmap b => exact absurd rfl (hi b)
  | _ => exact hs

end Promises

/-- Settles O18: by the registers an instruction leaves alone. -/
theorem onlyTheOwnOperationsWriteARegister : Obligations.OnlyTheOwnOperationsWriteARegister := by
  intro i s t hnext
  have he := exec_next hnext
  obtain ⟨hlin, hetemp, hpos, hori⟩ := he.signals_eq
  refine ⟨fun b hne => ?_, fun b hne => ?_, fun d hne => ?_, fun hne => ?_, fun hne => ?_,
    fun hne => ?_, fun hne => ?_, fun hne => ?_, he.moves_eq⟩
  · by_contra hnot
    obtain ⟨hrun, hreset⟩ := not_or.mp hnot
    exact hne (he.fb_eq hrun hreset)
  · exact not_imp_comm.mp he.nf_eq hne
  · exact not_imp_comm.mp he.fmi_eq hne
  · exact not_imp_comm.mp hlin hne
  · exact not_imp_comm.mp hetemp hne
  · exact not_imp_comm.mp hpos hne
  · exact not_imp_comm.mp hori hne
  · exact not_imp_comm.mp he.rxq_eq hne

/-- Settles O19. -/
theorem outputStreamOnlyGrows : Obligations.OutputStreamOnlyGrows :=
  fun _ _ _ hnext => (exec_next hnext).out_grows

/-- Settles O20: by the reply of each way an instruction ends. -/
theorem everyOperationReturnsAnAllowedStatus :
    Obligations.EveryOperationReturnsAnAllowedStatus := by
  intro i s t hnext
  obtain ⟨r, hr, hstatus⟩ := (exec_next hnext).reply
  exact ⟨r, hr, hstatus.imp_right And.left⟩

/-- Settles O21: the reply that was appended is the one the instruction gave. -/
theorem errorsLeaveNoTrace : Obligations.ErrorsLeaveNoTrace := by
  intro i s t r hnext hr herror
  obtain ⟨r', hr', hstatus⟩ := (exec_next hnext).reply
  obtain rfl : r = r' := by simpa [hr] using hr'
  obtain hok | ⟨-, hresult, ht⟩ := hstatus
  · exact absurd hok herror
  · exact ⟨hresult, ht⟩

/-- Settles O22. -/
theorem faultBitsStayLatched : Obligations.FaultBitsStayLatched :=
  fun _ _ _ _ hnext hi => (exec_next hnext).latched hi

/-- Settles O23. -/
theorem validMarksAreNeverCleared : Obligations.ValidMarksAreNeverCleared :=
  fun _ _ _ hnext => (exec_next hnext).keepsMarks

/-- Settles O24: an idle step and `PUSH` touch none of these registers, an instruction only its own.
-/
theorem onlyHardwareResetForgets : Obligations.OnlyHardwareResetForgets := by
  intro s t hnext hnoreset
  cases step_next hnext with
  | idle _ =>
    exact ⟨⟨[], by simp⟩, id, id, id, id, fun _ hne => absurd rfl hne,
      fun _ hne => absurd rfl hne⟩
  | pushed raw f rest _ _ =>
    exact ⟨⟨[], by simp⟩, id, id, id, id, fun _ hne => absurd rfl hne,
      fun _ hne => absurd rfl hne⟩
  | reset rest hm => exact absurd (by rw [hm, List.head?_cons]) hnoreset
  | ran r i rest t hm hd he =>
    have hhead : s.moves.head? = some (.request r) := by rw [hm, List.head?_cons]
    have hrun : ∀ h, h ∈ handlersRun (s.setMoves rest) i → h ∈ handlersRun s i := by
      intro h hh
      cases i <;> exact hh
    obtain ⟨new, hnew, -⟩ := he.out_grows
    obtain ⟨hlin, hetemp, hpos, hori⟩ := he.keepsMarks
    exact ⟨⟨new, hnew⟩, hlin, hetemp, hpos, hori,
      fun d hne => ⟨r, i, hhead, hd, hrun _ (not_imp_comm.mp he.fmi_eq hne)⟩,
      fun b hne => ⟨r, i, hhead, hd, hrun _ (not_imp_comm.mp he.nf_eq hne)⟩⟩

/-- Settles O25. -/
theorem newFaultsStayInsideUntilReset : Obligations.NewFaultsStayInsideUntilReset :=
  fun _ _ _ hnext hi hs => (exec_next hnext).newFaultsInside hi hs

/-- The state a tachometer frame with lane 0 raised leaves behind, from reset: `FB` 0x81, `NF` 1. -/
def tachometerRaised : State :=
  { State.reset with
    fb := ⟨0x81, 0x80, 0x80⟩
    nf := ⟨1, 0, 0⟩
    out := [.newFault .tachometer 0x81 1]
    replies := [⟨.ok, .empty⟩] }

theorem exec_bmpTach_raised : exec (.bmpTach ⟨0x00BEB000, [1, 0, 0, 0, 0, 0, 0, 0]⟩) State.reset =
    .next tachometerRaised := rfl

theorem reset_newFaultsInside : State.reset.NewFaultsInside := fun b => by cases b <;> decide

/-- Settles O26: a tachometer fault is raised, then its subsystem reset; `NF` still holds bit 0, the
bitmap no longer. -/
theorem resetCanLeaveNewFaultsOutside : Obligations.ResetCanLeaveNewFaultsOutside := by
  have he := exec_next exec_bmpTach_raised
  refine ⟨tachometerRaised, _, he.inv reset_inv, he.newFaultsInside nofun reset_newFaultsInside,
    rfl, fun hinside => ?_⟩
  exact absurd (hinside .tachometer) (by decide)

end Sys2Proof.Machine
end

section
/-! SUPPORT. The identifier codec (40_identifier_codec.md): the fields of any word, and `ENCODE` as
a bijection between its valid operands and the words of 29 bits. -/

namespace Sys2Proof.Machine

section Codec

variable {pri pri' pgn pgn' sa sa' id : Word} {edp edp' dp dp' : BitVec 1}

/-- The seven fields, by quotient and remainder on the number (R105). -/
theorem identFields_eq_ofNat (id : Word) : identFields id = .fields
    (BitVec.ofNat 3 (id.toNat / 2 ^ 26 % 2 ^ 3)) (BitVec.ofNat 1 (id.toNat / 2 ^ 25 % 2))
    (BitVec.ofNat 1 (id.toNat / 2 ^ 24 % 2)) (BitVec.ofNat 8 (id.toNat / 2 ^ 16 % 2 ^ 8))
    (BitVec.ofNat 8 (id.toNat / 2 ^ 8 % 2 ^ 8)) (BitVec.ofNat 8 (id.toNat % 2 ^ 8))
    (BitVec.ofNat 16 (id.toNat / 2 ^ 8 % 2 ^ 16)) := by
  simp only [identFields, Result.fields.injEq, ← BitVec.toNat_inj, BitVec.toNat_ofNat, idPri_toNat,
    idEdp_toNat, idDp_toNat, idPf_toNat, idPs_toNat, idSa_toNat, idPgn_toNat]
  refine ⟨?_, ?_, ?_, ?_, ?_, ?_, ?_⟩ <;> omega

/-- Operands within their widths are packed into their sum (R101). -/
theorem packIdent_of_le (hpri : pri.toNat ≤ 7) (hpgn : pgn.toNat ≤ 0xFFFF) (hsa : sa.toNat ≤ 0xFF) :
    ∃ id, packIdent pri edp dp pgn sa = some id ∧ id.toNat = pri.toNat * 2 ^ 26 +
      edp.toNat * 2 ^ 25 + dp.toNat * 2 ^ 24 + pgn.toNat * 2 ^ 8 + sa.toNat := by
  obtain ⟨id, hid⟩ := Option.isSome_iff_exists.mp
    (packIdent_isSome (edp := edp) (dp := dp) |>.mpr ⟨hpri, hpgn, hsa⟩)
  obtain ⟨-, -, -, hsum⟩ := packIdent_eq_some hid
  exact ⟨id, hid, hsum⟩

theorem and_identMask_toNat (id : Word) : (id &&& 0x1FFFFFFF).toNat = id.toNat % 2 ^ 29 := by
  have h := (BitVec.toNat_and id 0x1FFFFFFF).trans (and_fieldMask id.toNat 0 29)
  simpa using h

/-- Packing the fields of a word gives its low 29 bits (R109). -/
theorem packIdent_fields (id : Word) : packIdent ((idPri id).setWidth 32) (idEdp id) (idDp id)
    ((idPgn id).setWidth 32) ((idSa id).setWidth 32) = some (id &&& 0x1FFFFFFF) := by
  have hpri : ((idPri id).setWidth 32).toNat = id.toNat / 2 ^ 26 % 2 ^ 3 := by
    rw [BitVec.toNat_setWidth, idPri_toNat]
    omega
  have hpgn : ((idPgn id).setWidth 32).toNat = id.toNat / 2 ^ 8 % 2 ^ 16 := by
    rw [BitVec.toNat_setWidth, idPgn_toNat]
    omega
  have hsa : ((idSa id).setWidth 32).toNat = id.toNat % 2 ^ 8 := by
    rw [BitVec.toNat_setWidth, idSa_toNat]
    omega
  obtain ⟨w, hw, hsum⟩ := packIdent_of_le (edp := idEdp id) (dp := idDp id)
    (pri := (idPri id).setWidth 32) (pgn := (idPgn id).setWidth 32) (sa := (idSa id).setWidth 32)
    (by omega) (by omega) (by omega)
  rw [hpri, hpgn, hsa, idEdp_toNat, idDp_toNat] at hsum
  have hmask : w = id &&& 0x1FFFFFFF := by
    apply BitVec.eq_of_toNat_eq
    rw [hsum, and_identMask_toNat]
    omega
  rw [hw, hmask]

/-- The operands are the digits of the packed word, so they are determined by it (R110). -/
theorem packIdent_injective (h : packIdent pri edp dp pgn sa = some id)
    (h' : packIdent pri' edp' dp' pgn' sa' = some id) :
    pri = pri' ∧ edp = edp' ∧ dp = dp' ∧ pgn = pgn' ∧ sa = sa' := by
  obtain ⟨hpri, hpgn, hsa, hsum⟩ := packIdent_eq_some h
  obtain ⟨hpri', hpgn', hsa', hsum'⟩ := packIdent_eq_some h'
  have hedp := edp.isLt
  have hdp := dp.isLt
  have hedp' := edp'.isLt
  have hdp' := dp'.isLt
  simp only [← BitVec.toNat_inj]
  refine ⟨?_, ?_, ?_, ?_, ?_⟩ <;> omega

theorem exists_packIdent_iff :
    (∃ pri edp dp pgn sa, packIdent pri edp dp pgn sa = some id) ↔ id.toNat < 0x20000000 := by
  constructor
  · rintro ⟨pri, edp, dp, pgn, sa, h⟩
    exact packIdent_lt h
  · intro hlt
    have hlow : id &&& 0x1FFFFFFF = id := by
      apply BitVec.eq_of_toNat_eq
      rw [and_identMask_toNat]
      exact Nat.mod_eq_of_lt hlt
    exact ⟨_, _, _, _, _, hlow ▸ packIdent_fields id⟩

end Codec

/-- Settles O27: by the tag, and the fields as numbers. -/
theorem decodeReturnsTheFields : Obligations.DecodeReturnsTheFields := by
  refine ⟨fun p hop => ?_, fun id s => ?_⟩
  · simp only [decode, decodeCommand, hop]
    rfl
  · rw [exec_decodeId, identFields_eq_ofNat, State.answer]

/-- Settles O30. -/
theorem encodeAfterDecodeClearsTheTopBits : Obligations.EncodeAfterDecodeClearsTheTopBits :=
  fun id s => exec_encodeId_of_some s (packIdent_fields id)

/-- Settles O31. -/
theorem encodeIsInjectiveOntoTwentyNineBits : Obligations.EncodeIsInjectiveOntoTwentyNineBits :=
  ⟨fun _ _ _ _ _ _ _ _ _ _ _ h h' => packIdent_injective h h', fun _ => exists_packIdent_iff⟩

end Sys2Proof.Machine
end

section
/-! SUPPORT. The signal decoder (43_signal_decoder.md) and the payload reads (20_memory.md): what
each signal instruction does with the lanes it reads. -/

namespace Sys2Proof.Machine

section Signals

variable {f : Frame} {h : Handler} {s : State}

/-- A frame shorter than its handler's minimum is answered and nothing else (R126, R226). -/
theorem exec_instr_of_short (hs : f.data.length < minlen h) :
    exec (h.instr f) s = .next (s.answer ⟨.malformedPayload, .empty⟩) := by
  rw [exec_instr, handleOf_short h f s hs, returnToHost, raise]

theorem exec_instr_of_done {t : State} (ht : handleOf h f s = .done t) :
    exec (h.instr f) s = .next (t.answer ⟨.ok, .empty⟩) := by
  rw [exec_instr, ht, returnToHost, succeed]

theorem exec_sigLin_of_long {msb lsb : Byte} (hlen : 2 ≤ f.data.length)
    (hm : f.data[0]? = some msb) (hl : f.data[1]? = some lsb) :
    exec (.sigLin f) s = .next (((s.setSvLin (msb ++ lsb)).emit
      (.signalChanged (.linearDisplacement (msb ++ lsb)))).answer ⟨.ok, .empty⟩) := by
  refine exec_instr_of_done (h := .sigLin) ((guardLength_long hlen).trans ?_)
  rw [extractLin, memRead2_of_lanes hm hl]

theorem exec_sigEtemp_of_long {b : Byte} (hlen : 1 ≤ f.data.length) (hb : f.data[0]? = some b) :
    exec (.sigEtemp f) s = .next (((s.setSvEtemp (temperatureNumerator b)).emit
      (.signalChanged (.engineTemperature (temperatureNumerator b)))).answer ⟨.ok, .empty⟩) := by
  refine exec_instr_of_done (h := .sigEtemp) ((guardLength_long hlen).trans ?_)
  rw [extractEtemp, memRead1, hb]

theorem exec_sigPos_of_long {xm xl ym yl : Byte} (hlen : 4 ≤ f.data.length)
    (h0 : f.data[0]? = some xm) (h1 : f.data[1]? = some xl) (h2 : f.data[2]? = some ym)
    (h3 : f.data[3]? = some yl) :
    exec (.sigPos f) s = .next (((s.setSvPos (xm ++ xl) (ym ++ yl)).emit
      (.signalChanged (.vehiclePosition (xm ++ xl) (ym ++ yl)))).answer ⟨.ok, .empty⟩) := by
  refine exec_instr_of_done (h := .sigPos) ((guardLength_long hlen).trans ?_)
  rw [extractPos, memRead2_of_lanes h0 h1,
    memRead2_of_lanes h2 h3]

theorem exec_sigOri_of_long {msb lsb : Byte} (hlen : 3 ≤ f.data.length)
    (hm : f.data[1]? = some msb) (hl : f.data[2]? = some lsb) :
    exec (.sigOri f) s = .next (((s.setSvOri (msb ++ lsb)).emit
      (.signalChanged (.vehicleOrientation (msb ++ lsb)))).answer ⟨.ok, .empty⟩) := by
  refine exec_instr_of_done (h := .sigOri) ((guardLength_long hlen).trans ?_)
  rw [extractOri, memRead2_of_lanes hm hl]

/-- The identifiers of a handler are those its row's mask and match values accept. -/
theorem select_eq_iff_of_row {mask pat id : Word} (hr : (⟨h, mask, pat⟩ : FrameRow) ∈ frameTable) :
    select id = h ↔ id &&& mask = pat := by
  rw [select_eq_handler_iff hr, FrameRow.hits, beq_iff_eq]

end Signals

/-- Settles O49: by the length of the frame. -/
theorem linearDisplacementIsLanesZeroAndOne : Obligations.LinearDisplacementIsLanesZeroAndOne := by
  intro f s
  refine ⟨select_eq_iff_of_row (by decide), fun hshort => ?_, fun hlong => ?_⟩
  · exact exec_instr_of_short (h := .sigLin) hshort
  · obtain ⟨msb, hm⟩ := lane_of_lt (p := f.data) (i := 0) (by omega)
    obtain ⟨lsb, hl⟩ := lane_of_lt (p := f.data) (i := 1) (by omega)
    exact ⟨msb, lsb, _, hm, hl, toInt_join msb lsb, exec_sigLin_of_long hlong hm hl⟩

/-- Settles O50: by the length of the frame. -/
theorem engineTemperatureIsLaneZeroMinusForty :
    Obligations.EngineTemperatureIsLaneZeroMinusForty := by
  intro f s
  refine ⟨select_eq_iff_of_row (by decide), fun hshort => ?_, fun hlong => ?_⟩
  · exact exec_instr_of_short (h := .sigEtemp) hshort
  · obtain ⟨b, hb⟩ := lane_of_lt (p := f.data) (i := 0) (by omega)
    exact ⟨b, _, hb, temperatureNumerator_toInt b, exec_sigEtemp_of_long hlong hb⟩

/-- Settles O51: by the length of the frame. -/
theorem vehiclePositionIsLanesZeroToThree : Obligations.VehiclePositionIsLanesZeroToThree := by
  intro f s
  refine ⟨select_eq_iff_of_row (by decide), fun hshort => ?_, fun hlong => ?_⟩
  · exact exec_instr_of_short (h := .sigPos) hshort
  · obtain ⟨xm, h0⟩ := lane_of_lt (p := f.data) (i := 0) (by omega)
    obtain ⟨xl, h1⟩ := lane_of_lt (p := f.data) (i := 1) (by omega)
    obtain ⟨ym, h2⟩ := lane_of_lt (p := f.data) (i := 2) (by omega)
    obtain ⟨yl, h3⟩ := lane_of_lt (p := f.data) (i := 3) (by omega)
    exact ⟨xm, xl, ym, yl, _, _, h0, h1, h2, h3, toInt_join xm xl, toInt_join ym yl,
      exec_sigPos_of_long hlong h0 h1 h2 h3⟩

/-- Settles O52: by the length of the frame. -/
theorem vehicleOrientationIsLanesOneAndTwo : Obligations.VehicleOrientationIsLanesOneAndTwo := by
  intro f s
  refine ⟨select_eq_iff_of_row (by decide), fun hshort => ?_, fun hlong => ?_⟩
  · exact exec_instr_of_short (h := .sigOri) hshort
  · obtain ⟨msb, hm⟩ := lane_of_lt (p := f.data) (i := 1) (by omega)
    obtain ⟨lsb, hl⟩ := lane_of_lt (p := f.data) (i := 2) (by omega)
    exact ⟨msb, lsb, _, hm, hl, toInt_join msb lsb, exec_sigOri_of_long hlong hm hl⟩

/-- Settles O53: a two-byte read inside the lanes is the join of its two lanes. -/
theorem payloadReadsAreBoundedAndBigEndian : Obligations.PayloadReadsAreBoundedAndBigEndian := by
  intro p i
  refine ⟨memRead1_isSome, memRead2_isSome, fun w hw => ?_⟩
  have hlen : i + 1 < p.length := memRead2_isSome.mp (Option.isSome_of_eq_some hw)
  rw [memRead2_eq_some hlen, Option.some.injEq] at hw
  exact ⟨p[i], p[i + 1], memRead1_eq_some (by omega), memRead1_eq_some hlen, hw ▸ toNat_join _ _⟩

/-- A physical value times its divisor is the numerator (R172). -/
theorem physical_mul_divisor (k : SignalKind) (n : Half) :
    k.physical n * (k.divisor : Rat) = (n.toInt : Rat) := by
  have hdiv : (k.divisor : Rat) ≠ 0 := by cases k <;> norm_num [SignalKind.divisor]
  rw [SignalKind.physical, int16, Rat.mkRat_eq_div, div_mul_cancel₀ _ hdiv]

/-- Settles O54: the physical values times their divisors, and the range of an `i16`. -/
theorem physicalValuesAreExact : Obligations.PhysicalValuesAreExact := by
  intro n
  have hlin := physical_mul_divisor .linearDisplacement n
  have hori := physical_mul_divisor .vehicleOrientation n
  have htemp := physical_mul_divisor .engineTemperature n
  have hpos := physical_mul_divisor .vehiclePosition n
  simp only [SignalKind.divisor, Config.linearDivisor, Config.orientationDivisor, Nat.cast_ofNat,
    Nat.cast_one, mul_one] at hlin hori htemp hpos
  have hlow : (-32768 : Rat) ≤ n.toInt := by exact_mod_cast BitVec.le_toInt n
  have hhigh : (n.toInt : Rat) ≤ 32767 := by
    exact_mod_cast Int.le_of_lt_add_one (BitVec.toInt_lt (x := n))
  refine ⟨hlin, hori, htemp, hpos, ?_, ?_, ?_, ?_⟩ <;> linarith

end Sys2Proof.Machine
end

section
/-! SUPPORT. The command encoder and the accessor (44_command_encoder.md). -/

namespace Sys2Proof.Machine

section CommandEncoder

variable {sel v : Byte} {s : State}

theorem exec_buildReset_of_none (s : State) (h : resetFrame sel = none) :
    exec (.buildReset sel) s = .next (s.answer ⟨.invalidField, .empty⟩) := by
  simp only [exec, execBuildReset, h, sendFrame, raise]

theorem exec_buildSetpoint_of_none (s : State) (h : setpointFrame sel v = none) :
    exec (.buildSetpoint sel v) s = .next (s.answer ⟨.invalidField, .empty⟩) := by
  simp only [exec, execBuildSetpoint, h, sendFrame, raise]

theorem resetAddress_eq_none (h : sel = 0 ∨ 4 ≤ sel.toNat) : resetAddress sel = none := by
  have hsel : sel.toNat = 0 ∨ 4 ≤ sel.toNat := h.imp_left (congrArg BitVec.toNat)
  unfold resetAddress
  split
  case h_4 => rfl
  all_goals omega

theorem resetFrame_eq_none (h : sel = 0 ∨ 4 ≤ sel.toNat) : resetFrame sel = none := by
  rw [resetFrame, resetAddress_eq_none h]

theorem setpointFrame_eq_none (h : sel = 0 ∨ 3 ≤ sel.toNat) : setpointFrame sel v = none := by
  have hsel : sel.toNat = 0 ∨ 3 ≤ sel.toNat := h.imp_left (congrArg BitVec.toNat)
  unfold setpointFrame
  split
  case h_3 => rfl
  all_goals omega

/-- The remapped sum, as a number (R200). -/
theorem adjustSetpoint_toNat (current delta : Byte) : (adjustSetpoint current delta).toNat =
    (let n := (current.toNat + delta.toNat) % 256
     if n = 251 then 0 else if n = 255 then 250 else n) := by
  simp only [adjustSetpoint, apply_ite BitVec.toNat, ← BitVec.toNat_inj, BitVec.toNat_add]
  rfl

theorem exec_read_of_some {reg : RegName} {r : Result} (h : readRegister s reg = some r) :
    exec (.read reg) s = .next (s.answer ⟨.ok, r⟩) := by
  simp only [exec, execRead, h, succeed]

/-- `READ` of a signal register, by its valid mark (R32). -/
theorem exec_read_signal {reg : RegName} {valid : Bool} {n : Half}
    (h : readRegister s reg = if valid then some (.half n) else none) :
    exec (.read reg) s =
      .next (s.answer (if valid then ⟨.ok, .half n⟩ else ⟨.noValue, .empty⟩)) := by
  cases valid <;> simp only [exec, execRead, h] <;> rfl

end CommandEncoder

/-- Settles O57. -/
theorem undefinedSelectorsAreInvalidField : Obligations.UndefinedSelectorsAreInvalidField :=
  fun _ _ s => ⟨fun h => exec_buildReset_of_none s (resetFrame_eq_none h),
    fun h => exec_buildSetpoint_of_none s (setpointFrame_eq_none h)⟩

/-- Settles O59. -/
theorem adjustRemapsOnlyTwoSums : Obligations.AdjustRemapsOnlyTwoSums :=
  fun current delta _ => ⟨adjustSetpoint current delta, adjustSetpoint_toNat current delta, rfl⟩

/-- Settles O60: by the register named. -/
theorem readReturnsTheRegister : Obligations.ReadReturnsTheRegister := by
  intro s
  exact ⟨fun _ => exec_read_of_some rfl, fun _ => exec_read_of_some rfl,
    fun _ => exec_read_of_some rfl, exec_read_signal rfl, exec_read_signal rfl,
    exec_read_signal rfl, exec_read_signal rfl, exec_read_signal rfl⟩

end Sys2Proof.Machine
end

section
/-! SUPPORT. The fault tracker (42_fault_tracker.md R141 to R154): a bitmap frame joins the
indicators of its payload to the bitmap, whatever the bitmap was. -/

namespace Sys2Proof.Machine

section Bitmaps

variable {b : BitmapSub} {f g : Frame} {p : List Byte} {s t : State} {prev ind : Byte}

theorem zero_getLsbD (i : Nat) : (0 : Byte).getLsbD i = false := BitVec.getLsbD_zero

/-- The indicators a payload raises: bit `i` below 7 is set when lane `i` is non-zero (R141). -/
def indicators (p : List Byte) : Byte := (raiseIndicators p faultLanes 0).getD 0

theorem indicators_getLsbD (hp : 7 ≤ p.length) {i : Nat} (hi : i < 7) :
    (indicators p).getLsbD i = (p[i]? != some 0) := by
  obtain ⟨w, hw, hbits, -⟩ := raiseIndicators_faultLanes p 0 hp
  rw [indicators, hw, Option.getD_some, hbits i hi, zero_getLsbD, Bool.false_or]

theorem indicators_getLsbD_seven (hp : 7 ≤ p.length) : (indicators p).getLsbD 7 = false := by
  obtain ⟨w, hw, -, hseven⟩ := raiseIndicators_faultLanes p 0 hp
  rw [indicators, hw, Option.getD_some, hseven, zero_getLsbD]

/-- The loop of R141 joins the indicators to the working copy. -/
theorem raiseIndicators_eq_or (hp : 7 ≤ p.length) (prev : Byte) :
    raiseIndicators p faultLanes prev = some (prev ||| indicators p) := by
  obtain ⟨w, hw, hbits, hseven⟩ := raiseIndicators_faultLanes p prev hp
  rw [hw, Option.some.injEq]
  apply BitVec.eq_of_getLsbD_eq
  intro i hi
  rw [BitVec.getLsbD_or]
  by_cases h7 : i < 7
  · rw [hbits i h7, indicators_getLsbD hp h7]
  · obtain rfl : i = 7 := by omega
    rw [hseven, indicators_getLsbD_seven hp, Bool.or_false]

/-- The mask of the indicators alone is that of the working copy (R145). -/
theorem newFaultsMask_or (prev ind : Byte) :
    newFaultsMask prev (prev ||| ind) = newFaultsMask prev ind := by
  rw [newFaultsMask, newFaultsMask, BitVec.or_comm prev ind, BitVec.or_assoc, BitVec.or_self]

theorem newFaultsMask_eq_zero_iff : newFaultsMask prev ind = 0 ↔ ind ||| prev = prev :=
  BitVec.xor_eq_zero_iff.trans eq_comm

theorem exec_bitmapInstr (b : BitmapSub) (f : Frame) (s : State) :
    exec (bitmapInstr b f) s = returnToHost s (guardLength 8 f (updateBitmap b f s)) := by
  cases b <;> rfl

theorem exec_bitmapInstr_of_short (hs : f.data.length < 8) :
    exec (bitmapInstr b f) s = .next (s.answer ⟨.malformedPayload, .empty⟩) := by
  rw [exec_bitmapInstr, guardLength_short hs, returnToHost, raise]

/-- What the host sees of a bitmap frame that is long enough. -/
def bitmapUpdated (b : BitmapSub) (ind : Byte) (s : State) : State :=
  { s with
    fb := s.fb.set b (s.fb.get b ||| ind)
    nf := s.nf.set b (newFaultsMask (s.fb.get b) ind)
    out := if newFaultsMask (s.fb.get b) ind = 0 then s.out
      else s.out ++ [.newFault b (s.fb.get b ||| ind) (newFaultsMask (s.fb.get b) ind)]
    replies := s.replies ++ [⟨.ok, .empty⟩] }

theorem exec_bitmapInstr_of_long (hl : 8 ≤ f.data.length) :
    exec (bitmapInstr b f) s = .next (bitmapUpdated b (indicators f.data) s) := by
  rw [exec_bitmapInstr, guardLength_long hl, updateBitmap,
    raiseIndicators_eq_or (Nat.le_of_succ_le hl)]
  simp only [newFaultsMask_or, bitmapUpdated]
  by_cases hz : newFaultsMask (s.fb.get b) (indicators f.data) = 0
  · simp only [hz, ne_eq, not_true_eq_false, if_false, if_true]
    rfl
  · simp only [hz, ne_eq, not_false_eq_true, if_false, if_true]
    rfl

/-- The indicators a bitmap frame joins to the bitmap: none when it is malformed. -/
def frameIndicators (f : Frame) : Byte := if f.data.length < 8 then 0 else indicators f.data

/-- What any bitmap frame does to the bitmaps (R62). -/
theorem fb_of_exec_bitmapInstr (h : exec (bitmapInstr b f) s = .next t) :
    t.fb = s.fb.set b (s.fb.get b ||| frameIndicators f) := by
  by_cases hs : f.data.length < 8
  · obtain rfl := Host.Outcome.next.inj ((exec_bitmapInstr_of_short hs).symm.trans h)
    rw [frameIndicators, if_pos hs]
    simp
  · obtain rfl := Host.Outcome.next.inj
      ((exec_bitmapInstr_of_long (Nat.not_lt.mp hs)).symm.trans h)
    rw [frameIndicators, if_neg hs, bitmapUpdated]

theorem exec_ftReset_bitmap (b : BitmapSub) (s : State) :
    exec (.ftReset (.bitmap b)) s = .next ((s.setFb b 0x80).answer ⟨.ok, .empty⟩) := rfl

/-- Lanes 0 to 6 at zero raise nothing. -/
theorem indicators_eq_zero (hp : 7 ≤ p.length) (h : ∀ i, i < 7 → p[i]? = some 0) :
    indicators p = 0 := by
  apply BitVec.eq_of_getLsbD_eq
  intro i hi
  rw [zero_getLsbD]
  by_cases h7 : i < 7
  · rw [indicators_getLsbD hp h7, h i h7, bne_self_eq_false]
  · obtain rfl : i = 7 := by omega
    exact indicators_getLsbD_seven hp

/-- Over the sentinel every indicator is a new fault. -/
theorem newFaultsMask_sentinel_getLsbD {i : Nat} (hi : i < 7) :
    (newFaultsMask 0x80 ind).getLsbD i = ind.getLsbD i := by
  have hs : (0x80 : Byte).getLsbD i = false := by
    simpa [Nat.ne_of_lt hi] using sentinel_getLsbD i
  rw [newFaultsMask, BitVec.getLsbD_xor, BitVec.getLsbD_or, hs, Bool.or_false, Bool.false_xor]

end Bitmaps

/-- Settles O41: by the length of the frame. -/
theorem bitmapUpdateLatchesAndDetects : Obligations.BitmapUpdateLatchesAndDetects := by
  intro b f s
  refine ⟨fun hshort => exec_bitmapInstr_of_short hshort, fun hlong => ?_⟩
  have hseven : 7 ≤ f.data.length := Nat.le_of_succ_le hlong
  refine ⟨s.fb.get b ||| indicators f.data, newFaultsMask (s.fb.get b) (indicators f.data),
    fun i hi => ?_, ?_, ?_, exec_bitmapInstr_of_long hlong⟩
  · rw [BitVec.getLsbD_or, indicators_getLsbD hseven hi]
  · rw [BitVec.getLsbD_or, indicators_getLsbD_seven hseven, Bool.or_false]
  · rw [← newFaultsMask_or, newFaultsMask]

/-- Settles O42. -/
theorem edgeDetectorReadingsAgree : Obligations.EdgeDetectorReadingsAgree := by
  intro prev ind
  refine ⟨newFaultsMask_eq prev _, ?_, newFaultsMask_inside prev _, ?_⟩
  · rw [← newFaultsMask_or, newFaultsMask_eq]
  · rw [newFaultsMask_or, newFaultsMask_eq_zero_iff, BitVec.or_comm]

/-- Settles O43: the indicators are already in the bitmap. -/
theorem repeatedPayloadRaisesNothing : Obligations.RepeatedPayloadRaisesNothing := by
  intro b f g s t hlen hdata hnext
  obtain rfl := Host.Outcome.next.inj ((exec_bitmapInstr_of_long hlen).symm.trans hnext)
  have hjoined : (bitmapUpdated b (indicators f.data) s).fb.get b =
      s.fb.get b ||| indicators f.data := by rw [bitmapUpdated, BitmapBank.get_set_same]
  generalize bitmapUpdated b (indicators f.data) s = t at hjoined ⊢
  have hagain : t.fb.get b ||| indicators f.data = t.fb.get b := by
    rw [hjoined, BitVec.or_assoc, BitVec.or_self]
  have hmask : newFaultsMask (t.fb.get b) (indicators f.data) = 0 :=
    newFaultsMask_eq_zero_iff.mpr (by rw [BitVec.or_comm, hagain])
  rw [exec_bitmapInstr_of_long (hdata ▸ hlen), hdata, bitmapUpdated, hmask, hagain,
    BitmapBank.set_get_same, if_pos rfl]

/-- Settles O44: the two frames' indicators are joined in either order. -/
theorem bitmapUpdatesCommute : Obligations.BitmapUpdatesCommute := by
  intro b f g s t t' u u' ht ht' hu hu'
  rw [fb_of_exec_bitmapInstr ht', fb_of_exec_bitmapInstr ht, fb_of_exec_bitmapInstr hu',
    fb_of_exec_bitmapInstr hu]
  simp only [BitmapBank.get_set_same, BitmapBank.set_set_same, BitVec.or_assoc]
  rw [BitVec.or_comm (frameIndicators f)]

/-- Settles O46. -/
theorem ftResetRestoresTheSentinel : Obligations.FtResetRestoresTheSentinel := exec_ftReset_bitmap

/-- Settles O48: the frame's indicators join the sentinel. -/
theorem ftResetRearmsTheDetector : Obligations.FtResetRearmsTheDetector := by
  intro b f s t u hlen ht hu
  have hseven : 7 ≤ f.data.length := Nat.le_of_succ_le hlen
  obtain rfl := Host.Outcome.next.inj ((exec_ftReset_bitmap b s).symm.trans ht)
  obtain rfl := Host.Outcome.next.inj ((exec_bitmapInstr_of_long hlen).symm.trans hu)
  simp only [bitmapUpdated, State.answer_fb, State.setFb_fb, State.answer_out, State.setFb_out,
    BitmapBank.get_set_same]
  refine ⟨fun i hi => ?_, fun hzero => ?_⟩
  · rw [newFaultsMask_sentinel_getLsbD hi, indicators_getLsbD hseven hi]
  · have hmask : newFaultsMask 0x80 0 = 0 := by decide
    rw [indicators_eq_zero hseven hzero, hmask, if_pos rfl]
    exact ⟨by decide, rfl, rfl⟩

end Sys2Proof.Machine
end

section
/-! SUPPORT. The PGN dispatcher (41_pgn_dispatch.md): `DISPATCH` is the selected operation, a
handler reads its own lanes, and `DRAIN` is a fold over the queue. -/

namespace Sys2Proof.Machine

section Dispatch

variable {f g : Frame} {h : Handler} {s : State} {p q : List Byte}

theorem exec_dispatch_eq_instr (f : Frame) (s : State) :
    exec (.dispatch f) s = exec ((select f.id).instr f) s := by
  rw [exec_dispatch, exec_instr]

theorem dm1Instr_eq (d : Dm1Sub) (f : Frame) : dm1Instr d f = (dm1Handler d).instr f := by
  cases d <;> rfl

theorem raiseIndicators_congr {is : List Nat} (h : ∀ i ∈ is, p[i]? = q[i]?) (work : Byte) :
    raiseIndicators p is work = raiseIndicators q is work := by
  induction is generalizing work with
  | nil => rfl
  | cons i is ih =>
    obtain ⟨hfirst, hrest⟩ := List.forall_mem_cons.mp h
    simp only [raiseIndicators, memRead1, hfirst, ih hrest]

theorem memRead2_congr {i : Nat} (h0 : p[i]? = q[i]?) (h1 : p[i + 1]? = q[i + 1]?) :
    memRead2 p i = memRead2 q i := by simp only [memRead2, h0, h1]

theorem updateBitmap_congr (b : BitmapSub) (h : ∀ i, i < 7 → f.data[i]? = g.data[i]?) :
    updateBitmap b f s = updateBitmap b g s := by
  have hlanes : ∀ i ∈ faultLanes, f.data[i]? = g.data[i]? := fun i hi => h i (mem_faultLanes.mp hi)
  simp only [updateBitmap, raiseIndicators_congr hlanes]

theorem updateDm1_congr (d : Dm1Sub) (h : f.data[4]? = g.data[4]?) :
    updateDm1 d f s = updateDm1 d g s := by
  simp only [updateDm1, fmiOperand, memRead1, h]

theorem guardLength_congr {min : Nat} {a c : Handled} (hf : min ≤ f.data.length)
    (hg : min ≤ g.data.length) (hac : a = c) : guardLength min f a = guardLength min g c := by
  rw [guardLength_long hf, guardLength_long hg, hac]

/-- A handler reads the lanes of its row of R51, and of the identifier nothing. -/
theorem handleOf_congr (hf : minlen h ≤ f.data.length) (hg : minlen h ≤ g.data.length)
    (hlanes : ∀ i ∈ lanesRead h, f.data[i]? = g.data[i]?) : handleOf h f s = handleOf h g s := by
  have hseven : lanesRead h = [0, 1, 2, 3, 4, 5, 6] → ∀ i, i < 7 → f.data[i]? = g.data[i]? := by
    intro hrow i hi
    exact hlanes i (by rw [hrow]; interval_cases i <;> decide)
  cases h with
  | bmpTach => exact guardLength_congr hf hg (updateBitmap_congr _ (hseven rfl))
  | bmpFuel => exact guardLength_congr hf hg (updateBitmap_congr _ (hseven rfl))
  | bmpTherm => exact guardLength_congr hf hg (updateBitmap_congr _ (hseven rfl))
  | dm1Lin => exact guardLength_congr hf hg (updateDm1_congr _ (hlanes 4 (by decide)))
  | dm1Temp => exact guardLength_congr hf hg (updateDm1_congr _ (hlanes 4 (by decide)))
  | dm1Pos => exact guardLength_congr hf hg (updateDm1_congr _ (hlanes 4 (by decide)))
  | sigLin =>
    refine guardLength_congr hf hg ?_
    rw [extractLin, extractLin,
      memRead2_congr (hlanes 0 (by decide)) (hlanes 1 (by decide))]
  | sigEtemp =>
    refine guardLength_congr hf hg ?_
    rw [extractEtemp, extractEtemp, memRead1, memRead1, hlanes 0 (by decide)]
  | sigPos =>
    refine guardLength_congr hf hg ?_
    rw [extractPos, extractPos, memRead2_congr (hlanes 0 (by decide)) (hlanes 1 (by decide)),
      memRead2_congr (hlanes 2 (by decide)) (hlanes 3 (by decide))]
  | sigOri =>
    refine guardLength_congr hf hg ?_
    rw [extractOri, extractOri,
      memRead2_congr (hlanes 1 (by decide)) (hlanes 2 (by decide))]
  | testAck => exact guardLength_congr hf hg rfl
  | drop => rfl

end Dispatch

/-- Settles O32: by the length of the frame. -/
theorem dispatchRunsTheSelectedOperation : Obligations.DispatchRunsTheSelectedOperation := by
  intro f s
  refine ⟨exec_dispatch_eq_instr f s, fun hlong => ?_, fun hshort => ?_⟩
  · obtain ⟨t, ht, heff⟩ := handleOf_long (select f.id) f s hlong
    refine ⟨t.answer ⟨.ok, .empty⟩, ?_, ?_, heff.rxq_eq, heff.moves_eq⟩
    · rw [exec_dispatch_eq_instr, exec_instr_of_done ht]
    · rw [State.answer_replies, heff.replies_eq]
  · exact (exec_dispatch_eq_instr f s).trans (exec_instr_of_short hshort)

/-- Settles O33: by the handler's minimum. -/
theorem shortFramesAreMalformed : Obligations.ShortFramesAreMalformed := by
  intro f s
  exact ⟨fun h b => exec_bitmapInstr_of_short h, fun h d => exec_dm1Instr_of_short h,
    exec_instr_of_short (h := .sigPos), exec_instr_of_short (h := .sigOri),
    exec_instr_of_short (h := .sigLin), exec_instr_of_short (h := .sigEtemp)⟩

/-- Settles O34. -/
theorem handlersReadOnlyTheirLanes : Obligations.HandlersReadOnlyTheirLanes := by
  intro h f g s hf hg hlanes
  rw [exec_instr, exec_instr, handleOf_congr hf hg hlanes]

/-- Settles O36. -/
theorem testFramesAreAcknowledged : Obligations.TestFramesAreAcknowledged :=
  ⟨ackId_lt, fun _ _ => rfl⟩

/-- Settles O58: the frame a selector sends carries the PGN of DM1, the address of its subsystem and
a zero in lane 4. -/
theorem echoedResetFrameClearsItsFmi : Obligations.EchoedResetFrameClearsItsFmi := by
  intro sel d s t u id data hsel hnext hout
  have hsent : ∃ w, resetFrame sel = some (w, ⟨0, 0, 0, 0, 0, 0, 0, 0⟩) ∧
      select w = dm1Handler d := by
    obtain ⟨rfl, rfl⟩ | ⟨rfl, rfl⟩ | ⟨rfl, rfl⟩ := hsel
    · exact ⟨_, resetFrame_linear, by decide⟩
    · exact ⟨_, resetFrame_position, by decide⟩
    · exact ⟨_, resetFrame_temperature, by decide⟩
  obtain ⟨w, hframe, hrow⟩ := hsent
  obtain rfl := Host.Outcome.next.inj ((exec_buildReset_of_some s hframe).symm.trans hnext)
  simp only [State.answer_out, State.emit_out, List.append_cancel_left_eq, List.cons.injEq,
    Event.frameOut.injEq, and_true] at hout
  obtain ⟨rfl, rfl⟩ := hout
  rw [exec_dispatch_eq_instr, hrow, ← dm1Instr_eq]
  refine exec_dm1Instr_of_long ?_
  exact (by decide : 4 < 8)

end Sys2Proof.Machine
end

section
/-! SUPPORT. `DRAIN` (41_pgn_dispatch.md R123 to R125) as a fold over the queue. The fold neither
reads nor writes the host's side, so the queue it starts from can be cut anywhere. -/

namespace Sys2Proof.Machine

section Drain

variable {f : Frame} {q : List Frame} {s t : State}

theorem handle_of_short (s : State) (hs : f.data.length < minlen (select f.id)) :
    handle f s = .raised .malformedPayload := by
  rw [handle_eq_handleOf, handleOf_short _ _ _ hs]

theorem handle_of_long (s : State) (hl : minlen (select f.id) ≤ f.data.length) :
    ∃ t, handle f s = .done t ∧ HandlerEffect f s (select f.id) t := by
  rw [handle_eq_handleOf]
  exact handleOf_long _ f s hl

theorem handle_withHostSide (f : Frame) (s : State) (q : List Frame) (r : List Reply)
    (m : List HostMove) :
    handle f (s.withHostSide q r m) = (handle f s).withHostSide q r m := by
  rw [handle_eq_handleOf, handle_eq_handleOf, handleOf_withHostSide]

/-- What `DRAIN` does with one frame: the handler's work, or the report of the malformed frame. -/
def drainFrame (s : State) (f : Frame) : State :=
  match handle f s with
  | .done t => t
  | .raised e => reportFrameError e f.id s
  | .outOfBounds => s

theorem drainFrame_of_done (h : handle f s = .done t) : drainFrame s f = t := by
  rw [drainFrame, h]

theorem drainFrame_of_short (hs : f.data.length < minlen (select f.id)) :
    drainFrame s f = reportFrameError .malformedPayload f.id s := by
  rw [drainFrame, handle_of_short s hs]

theorem drainFrame_withHostSide (s : State) (f : Frame) (q : List Frame) (r : List Reply)
    (m : List HostMove) :
    drainFrame (s.withHostSide q r m) f = (drainFrame s f).withHostSide q r m := by
  rw [drainFrame, drainFrame, handle_withHostSide]
  cases handle f s <;> rfl

theorem drainQueue_cons (f : Frame) (q : List Frame) (s : State) :
    drainQueue (f :: q) s = drainQueue q (drainFrame (s.setRxq q) f) := by
  by_cases hs : f.data.length < minlen (select f.id)
  · rw [drainQueue, handle_of_short _ hs, drainFrame_of_short hs]
  · obtain ⟨t, ht, -⟩ := handle_of_long (s.setRxq q) (Nat.not_lt.mp hs)
    rw [drainQueue, ht, drainFrame_of_done ht]

/-- `DRAIN` is the fold of `drainFrame` over the queue, whatever the host's side. -/
theorem exec_drain_withHostSide (s : State) (q : List Frame) (r : List Reply)
    (m : List HostMove) : exec .drain (s.withHostSide q r m) =
      .next ((q.foldl drainFrame s).withHostSide [] (r ++ [⟨.ok, .empty⟩]) m) := by
  rw [exec_drain]
  change drainQueue q _ = _
  induction q generalizing s with
  | nil => rfl
  | cons f q ih =>
    rw [drainQueue_cons]
    change drainQueue q (drainFrame (s.withHostSide q r m) f) = _
    rw [drainFrame_withHostSide, ih, List.foldl_cons]

theorem exec_drain_eq_foldl (s : State) : exec .drain s = .next
    ((s.rxq.foldl drainFrame s).withHostSide [] (s.replies ++ [⟨.ok, .empty⟩]) s.moves) :=
  exec_drain_withHostSide s s.rxq s.replies s.moves

/-- A drain goes on from the state its first frame leaves, whose queue is the rest (R123). -/
theorem exec_drain_cons (hq : s.rxq = f :: q) :
    exec .drain s = exec .drain (drainFrame (s.setRxq q) f) := by
  have hstep : drainFrame (s.setRxq q) f =
      (drainFrame s f).withHostSide q s.replies s.moves := drainFrame_withHostSide s f q _ _
  rw [exec_drain_eq_foldl, hq, List.foldl_cons, hstep, exec_drain_withHostSide]

/-- `PUSH` of a frame on an empty queue, then `DRAIN` (R92): the frame is handled as by `DRAIN`. -/
theorem step_feedMoves {u v : State} {raw : RawFrame} {rest : List HostMove} (hq : s.rxq = [])
    (hm : s.moves = feedMoves raw ++ rest) (hf : raw.frame = .ok f) (hu : step s = .next u)
    (hv : step u = .next v) :
    v = (drainFrame s f).withHostSide [] (s.replies ++ [⟨.ok, .empty⟩]) rest := by
  obtain rfl := Host.Outcome.next.inj ((step_push hm hf).symm.trans hu)
  have hdrain := exec_drain_withHostSide s [f] s.replies rest
  rw [step_request (r := encode .drain) (rest := rest) rfl rfl, hq] at hv
  exact Host.Outcome.next.inj (hv.symm.trans hdrain)

end Drain

/-- Settles O37: by whether the first frame is long enough. -/
theorem drainDispatchesTheQueueInOrder : Obligations.DrainDispatchesTheQueueInOrder := by
  refine ⟨fun s hq => ?_, fun s f q hq => ?_⟩
  · exact congrArg (drainQueue · s) hq
  · rw [exec_drain_cons hq]
    by_cases hs : f.data.length < minlen (select f.id)
    · refine ⟨s.setRxq q, .malformedPayload, ?_, rfl, .inr rfl, ?_⟩
      · exact (exec_dispatch_eq_instr f _).trans (exec_instr_of_short hs)
      · rw [if_pos rfl, drainFrame_of_short hs]
        rfl
    · obtain ⟨t, ht, heff⟩ := handle_of_long (s.setRxq q) (Nat.not_lt.mp hs)
      have hreplies : t.replies = s.replies := heff.replies_eq
      refine ⟨t, .ok, ?_, hreplies, .inl rfl, ?_⟩
      · have hanswer : exec (.dispatch f) (s.setRxq q) = .next (t.answer ⟨.ok, .empty⟩) :=
          congrArg (returnToHost (s.setRxq q)) ht
        rwa [State.answer, hreplies] at hanswer
      · rw [if_neg nofun, drainFrame_of_done ht]

/-- Settles O38. -/
theorem drainEmptiesTheQueue : Obligations.DrainEmptiesTheQueue :=
  fun s => ⟨_, exec_drain_eq_foldl s, rfl, rfl, rfl⟩

/-- Settles O39: a fold over an appended queue is the two folds. -/
theorem drainSplits : Obligations.DrainSplits := by
  intro s t u q r hq ht hu
  have ht' := exec_drain_withHostSide s q s.replies s.moves
  obtain rfl := Host.Outcome.next.inj (ht'.symm.trans ht)
  have hu' := exec_drain_withHostSide (q.foldl drainFrame s) r
    (s.replies ++ [⟨.ok, .empty⟩]) s.moves
  obtain rfl := Host.Outcome.next.inj (hu'.symm.trans hu)
  rw [exec_drain_eq_foldl, hq, List.foldl_append]
  rfl

/-- Settles O40: by whether the frame is long enough. -/
theorem feedActsAsDispatch : Obligations.FeedActsAsDispatch := by
  intro s u v w raw f rest hq hm hf hu hv hw
  obtain rfl := step_feedMoves hq hm hf hu hv
  by_cases hs : f.data.length < minlen (select f.id)
  · have hshort := (exec_dispatch_eq_instr f s).trans (exec_instr_of_short hs)
    obtain rfl := Host.Outcome.next.inj (hshort.symm.trans hw)
    rw [drainFrame_of_short hs, if_pos hs]
    exact ⟨⟨rfl, rfl, rfl, rfl, rfl, rfl, rfl⟩, rfl, rfl, rfl⟩
  · obtain ⟨t, ht, -⟩ := handle_of_long s (Nat.not_lt.mp hs)
    obtain rfl := Host.Outcome.next.inj
      ((congrArg (returnToHost s) ht).symm.trans hw)
    rw [drainFrame_of_done ht, if_neg hs, List.append_nil]
    exact ⟨⟨rfl, rfl, rfl, rfl, rfl, rfl, rfl⟩, rfl, rfl, rfl⟩

end Sys2Proof.Machine
end
